-- ==== Sys2Proof/Word.lean ====
section
/-! DEFINITION. The widths of the machine's values (spec/00_scope.md R7, spec/30_encoding.md R94). -/

namespace Sys2Proof

/-- One memory byte, one general register, one timer (R7: 8 bits). -/
abbrev Byte := BitVec 8

/-- The program counter, the index register, a stack element, an instruction word (R7: 16 bits). -/
abbrev Word := BitVec 16

/-- A register index, a key index or a sprite height: one nibble of an instruction word (R93). -/
abbrev Nibble := BitVec 4

/-- A 12-bit address operand `nnn` (R93). -/
abbrev Addr12 := BitVec 12

/-- One framebuffer row: bit `x` is the cell of column `x` (R39: 64 columns). -/
abbrev Row := BitVec 64

/-- The framebuffer: row `y` at position `y` (R39: 32 rows of 64 one-bit cells). -/
abbrev Bitmap := Vector Row 32

end Sys2Proof
end

