-- ==== Sys2Proof/Machine/Flags.lean ====
section
/-! DEFINITION. The flag computations: every value that VF takes as the flag register (spec/10_state.md R43). Operands are
the values before the instruction (spec/42_alu.md R160). -/

namespace Sys2Proof.Machine

/-- A flag as a register value: `zext_8`. -/
def flagByte (b : Bool) : Byte := if b then 0x01 else 0x00

/-- Carry: the exact sum exceeds 255 (R167). -/
def carryFlag (a b : Byte) : Byte := flagByte (decide (255 < a.toNat + b.toNat))

/-- No borrow: the minuend is at least the subtrahend (R168, R170). -/
def noBorrowFlag (minuend subtrahend : Byte) : Byte := flagByte (decide (subtrahend.toNat ≤ minuend.toNat))

/-- The bit a right shift moves out: bit 0 (R169). -/
def shiftedOutLow (v : Byte) : Byte := flagByte (v.getLsbD 0)

/-- The bit a left shift moves out: bit 7 (R171). -/
def shiftedOutHigh (v : Byte) : Byte := flagByte (v.getLsbD 7)

end Sys2Proof.Machine
end

