-- ==== Sys2Proof/Syntax.lean ====
section
/-! DEFINITION. The Operations: the closed sum of 35 variants of spec/30_encoding.md R94, in the order of
spec/opcode_table.json, and the decoder's own types. -/

namespace Sys2Proof

/-- One decoded CHIP-8 instruction with its operands (spec/30_encoding.md R94). `x`, `y` are register indices, `kk` an
8-bit immediate, `nnn` a 12-bit address, `n` the sprite height. -/
inductive Instr where
  | clearDisplay
  | returnFromSubroutine
  | call (nnn : Addr12)
  | jump (nnn : Addr12)
  | callSubroutine (nnn : Addr12)
  | skipIfEqualImmediate (x : Nibble) (kk : Byte)
  | skipIfNotEqualImmediate (x : Nibble) (kk : Byte)
  | skipIfRegistersEqual (x y : Nibble)
  | setImmediate (x : Nibble) (kk : Byte)
  | addImmediate (x : Nibble) (kk : Byte)
  | copy (x y : Nibble)
  | or (x y : Nibble)
  | and (x y : Nibble)
  | xor (x y : Nibble)
  | addWithCarry (x y : Nibble)
  | subtractWithBorrow (x y : Nibble)
  | shiftRight (x y : Nibble)
  | reverseSubtract (x y : Nibble)
  | shiftLeft (x y : Nibble)
  | skipIfRegistersNotEqual (x y : Nibble)
  | setIndex (nnn : Addr12)
  | jumpPlusV0 (nnn : Addr12)
  | randomMask (x : Nibble) (kk : Byte)
  | drawSprite (x y n : Nibble)
  | skipIfKeyDown (x : Nibble)
  | skipIfKeyUp (x : Nibble)
  | readDelayTimer (x : Nibble)
  | blockOnKeyPress (x : Nibble)
  | setDelayTimer (x : Nibble)
  | setSoundTimer (x : Nibble)
  | addToIndexRegister (x : Nibble)
  | useSprite (x : Nibble)
  | readRegisterAsBCD (x : Nibble)
  | dumpRegisters (x : Nibble)
  | fillRegisters (x : Nibble)
deriving DecidableEq, Repr

/-- Why bytes decode to no Operation. -/
inductive DecodeError where
  /-- The word is in the illegal set of spec/30_encoding.md R100. -/
  | illegalWord
  /-- Fewer than two bytes were given to the byte-level decoder; a Step never meets this (R90: every instruction is two
  bytes, and R72: every fetch address exists). -/
  | truncated
deriving DecidableEq, Repr

/-- The decoder's output as a hardware struct (spec/30_encoding.md R99): the operation tag, the valid bit, and the five
field slices, driven whether or not the variant uses them. -/
structure DecoderOutput where
  tag   : BitVec 6
  valid : Bool
  x     : Nibble
  y     : Nibble
  n     : Nibble
  kk    : Byte
  nnn   : Addr12
deriving DecidableEq, Repr

end Sys2Proof
end

