-- ==== Sys2Proof/WellFormed.lean ====
section
/-! DEFINITION. Which instructions have an encoding. Every operand type has exactly the width of its field
(spec/30_encoding.md R93, R94), so the one check left is that of `call`. -/

namespace Sys2Proof

/-- A well-formed instruction is one that some word decodes to. Only `Call(0x0E0)` and `Call(0x0EE)` are not: their words
are ClearDisplay's and ReturnFromSubroutine's (spec/30_encoding.md R98). -/
def Instr.wellFormed : Instr → Bool
  | .call nnn => nnn != 0x0E0#12 && nnn != 0x0EE#12
  | .clearDisplay | .returnFromSubroutine | .jump _ | .callSubroutine _ | .skipIfEqualImmediate _ _
  | .skipIfNotEqualImmediate _ _ | .skipIfRegistersEqual _ _ | .setImmediate _ _ | .addImmediate _ _ | .copy _ _
  | .or _ _ | .and _ _ | .xor _ _ | .addWithCarry _ _ | .subtractWithBorrow _ _ | .shiftRight _ _
  | .reverseSubtract _ _ | .shiftLeft _ _ | .skipIfRegistersNotEqual _ _ | .setIndex _ | .jumpPlusV0 _
  | .randomMask _ _ | .drawSprite _ _ _ | .skipIfKeyDown _ | .skipIfKeyUp _ | .readDelayTimer _
  | .blockOnKeyPress _ | .setDelayTimer _ | .setSoundTimer _ | .addToIndexRegister _ | .useSprite _
  | .readRegisterAsBCD _ | .dumpRegisters _ | .fillRegisters _ => true

end Sys2Proof
end

