-- ==== Sys2Proof/Decode.lean ====
section
/-! DEFINITION. The field slices, the decoder (total on every word and on any bytes), then the encoder, the decoder's
hardware output and the assembly text (spec/30_encoding.md). -/

namespace Sys2Proof

/-! The fields of an instruction word (R93). -/

/-- `op = w[15:12]`. -/
def Word.op (w : Word) : Nibble := w.extractLsb' 12 4

/-- `x = w[11:8]`. -/
def Word.x (w : Word) : Nibble := w.extractLsb' 8 4

/-- `y = w[7:4]`. -/
def Word.y (w : Word) : Nibble := w.extractLsb' 4 4

/-- `n = w[3:0]`. -/
def Word.n (w : Word) : Nibble := w.extractLsb' 0 4

/-- `kk = w[7:0]`. -/
def Word.kk (w : Word) : Byte := w.extractLsb' 0 8

/-- `nnn = w[11:0]`. -/
def Word.nnn (w : Word) : Addr12 := w.extractLsb' 0 12

/-- The 0x0 class: two exact words are tested before the `Call` default (R96, R98). -/
def decodeClass0 (nnn : Addr12) : Instr :=
  if nnn = 0x0E0#12 then .clearDisplay
  else if nnn = 0x0EE#12 then .returnFromSubroutine
  else .call nnn

/-- The 0x8 class: the ALU sub-dispatch on the bottom nibble (R96). -/
def decodeClass8 (x y n : Nibble) : Except DecodeError Instr :=
  if n = 0x0#4 then .ok (.copy x y)
  else if n = 0x1#4 then .ok (.or x y)
  else if n = 0x2#4 then .ok (.and x y)
  else if n = 0x3#4 then .ok (.xor x y)
  else if n = 0x4#4 then .ok (.addWithCarry x y)
  else if n = 0x5#4 then .ok (.subtractWithBorrow x y)
  else if n = 0x6#4 then .ok (.shiftRight x y)
  else if n = 0x7#4 then .ok (.reverseSubtract x y)
  else if n = 0xE#4 then .ok (.shiftLeft x y)
  else .error .illegalWord

/-- The 0xE class: the key skips, by the bottom byte (R96). -/
def decodeClassE (x : Nibble) (kk : Byte) : Except DecodeError Instr :=
  if kk = 0x9E#8 then .ok (.skipIfKeyDown x)
  else if kk = 0xA1#8 then .ok (.skipIfKeyUp x)
  else .error .illegalWord

/-- The 0xF class, by the bottom byte (R96; the pairing of code and operation is R97's, notes/assumptions/20.md). -/
def decodeClassF (x : Nibble) (kk : Byte) : Except DecodeError Instr :=
  if kk = 0x07#8 then .ok (.readDelayTimer x)
  else if kk = 0x0A#8 then .ok (.blockOnKeyPress x)
  else if kk = 0x15#8 then .ok (.setDelayTimer x)
  else if kk = 0x18#8 then .ok (.setSoundTimer x)
  else if kk = 0x1E#8 then .ok (.addToIndexRegister x)
  else if kk = 0x29#8 then .ok (.useSprite x)
  else if kk = 0x33#8 then .ok (.readRegisterAsBCD x)
  else if kk = 0x55#8 then .ok (.dumpRegisters x)
  else if kk = 0x65#8 then .ok (.fillRegisters x)
  else .error .illegalWord

/-- `decode` of R96: dispatch on the top nibble, total on all 65536 words (R95). -/
def decode (w : Word) : Except DecodeError Instr :=
  if w.op = 0x0#4 then .ok (decodeClass0 w.nnn)
  else if w.op = 0x1#4 then .ok (.jump w.nnn)
  else if w.op = 0x2#4 then .ok (.callSubroutine w.nnn)
  else if w.op = 0x3#4 then .ok (.skipIfEqualImmediate w.x w.kk)
  else if w.op = 0x4#4 then .ok (.skipIfNotEqualImmediate w.x w.kk)
  else if w.op = 0x5#4 then if w.n = 0#4 then .ok (.skipIfRegistersEqual w.x w.y) else .error .illegalWord
  else if w.op = 0x6#4 then .ok (.setImmediate w.x w.kk)
  else if w.op = 0x7#4 then .ok (.addImmediate w.x w.kk)
  else if w.op = 0x8#4 then decodeClass8 w.x w.y w.n
  else if w.op = 0x9#4 then if w.n = 0#4 then .ok (.skipIfRegistersNotEqual w.x w.y) else .error .illegalWord
  else if w.op = 0xA#4 then .ok (.setIndex w.nnn)
  else if w.op = 0xB#4 then .ok (.jumpPlusV0 w.nnn)
  else if w.op = 0xC#4 then .ok (.randomMask w.x w.kk)
  else if w.op = 0xD#4 then .ok (.drawSprite w.x w.y w.n)
  else if w.op = 0xE#4 then decodeClassE w.x w.kk
  else decodeClassF w.x w.kk

/-- The instruction word of two bytes, the byte at the lower address in bits 15..8 (spec/20_memory.md R71;
notes/assumptions/3.md). -/
def wordOfBytes (hi lo : Byte) : Word := hi ++ lo

/-- The byte of a word that lies at the lower address (R71). -/
def Word.hiByte (w : Word) : Byte := w.extractLsb' 8 8

/-- The byte of a word that lies at the higher address (R71). -/
def Word.loByte (w : Word) : Byte := w.extractLsb' 0 8

/-- The decoder over bytes in address order: one instruction, and the bytes after it (R90, R71). -/
def decodeBytes : List Byte → Except DecodeError (Instr × List Byte)
  | hi :: lo :: rest =>
    match decode (wordOfBytes hi lo) with
    | .ok i => .ok (i, rest)
    | .error e => .error e
  | [_] | [] => .error .truncated

/-- The encoder, from the formats of R91 and the rows of spec/opcode_table.json. -/
def encode : Instr → Word
  | .clearDisplay => 0x00E0#16
  | .returnFromSubroutine => 0x00EE#16
  | .call nnn => 0x0#4 ++ nnn
  | .jump nnn => 0x1#4 ++ nnn
  | .callSubroutine nnn => 0x2#4 ++ nnn
  | .skipIfEqualImmediate x kk => 0x3#4 ++ x ++ kk
  | .skipIfNotEqualImmediate x kk => 0x4#4 ++ x ++ kk
  | .skipIfRegistersEqual x y => 0x5#4 ++ x ++ y ++ 0x0#4
  | .setImmediate x kk => 0x6#4 ++ x ++ kk
  | .addImmediate x kk => 0x7#4 ++ x ++ kk
  | .copy x y => 0x8#4 ++ x ++ y ++ 0x0#4
  | .or x y => 0x8#4 ++ x ++ y ++ 0x1#4
  | .and x y => 0x8#4 ++ x ++ y ++ 0x2#4
  | .xor x y => 0x8#4 ++ x ++ y ++ 0x3#4
  | .addWithCarry x y => 0x8#4 ++ x ++ y ++ 0x4#4
  | .subtractWithBorrow x y => 0x8#4 ++ x ++ y ++ 0x5#4
  | .shiftRight x y => 0x8#4 ++ x ++ y ++ 0x6#4
  | .reverseSubtract x y => 0x8#4 ++ x ++ y ++ 0x7#4
  | .shiftLeft x y => 0x8#4 ++ x ++ y ++ 0xE#4
  | .skipIfRegistersNotEqual x y => 0x9#4 ++ x ++ y ++ 0x0#4
  | .setIndex nnn => 0xA#4 ++ nnn
  | .jumpPlusV0 nnn => 0xB#4 ++ nnn
  | .randomMask x kk => 0xC#4 ++ x ++ kk
  | .drawSprite x y n => 0xD#4 ++ x ++ y ++ n
  | .skipIfKeyDown x => 0xE#4 ++ x ++ 0x9E#8
  | .skipIfKeyUp x => 0xE#4 ++ x ++ 0xA1#8
  | .readDelayTimer x => 0xF#4 ++ x ++ 0x07#8
  | .blockOnKeyPress x => 0xF#4 ++ x ++ 0x0A#8
  | .setDelayTimer x => 0xF#4 ++ x ++ 0x15#8
  | .setSoundTimer x => 0xF#4 ++ x ++ 0x18#8
  | .addToIndexRegister x => 0xF#4 ++ x ++ 0x1E#8
  | .useSprite x => 0xF#4 ++ x ++ 0x29#8
  | .readRegisterAsBCD x => 0xF#4 ++ x ++ 0x33#8
  | .dumpRegisters x => 0xF#4 ++ x ++ 0x55#8
  | .fillRegisters x => 0xF#4 ++ x ++ 0x65#8

/-- The operation tag: the variant's place in spec/opcode_table.json (R99). -/
def Instr.tag : Instr → BitVec 6
  | .clearDisplay => 0
  | .returnFromSubroutine => 1
  | .call _ => 2
  | .jump _ => 3
  | .callSubroutine _ => 4
  | .skipIfEqualImmediate _ _ => 5
  | .skipIfNotEqualImmediate _ _ => 6
  | .skipIfRegistersEqual _ _ => 7
  | .setImmediate _ _ => 8
  | .addImmediate _ _ => 9
  | .copy _ _ => 10
  | .or _ _ => 11
  | .and _ _ => 12
  | .xor _ _ => 13
  | .addWithCarry _ _ => 14
  | .subtractWithBorrow _ _ => 15
  | .shiftRight _ _ => 16
  | .reverseSubtract _ _ => 17
  | .shiftLeft _ _ => 18
  | .skipIfRegistersNotEqual _ _ => 19
  | .setIndex _ => 20
  | .jumpPlusV0 _ => 21
  | .randomMask _ _ => 22
  | .drawSprite _ _ _ => 23
  | .skipIfKeyDown _ => 24
  | .skipIfKeyUp _ => 25
  | .readDelayTimer _ => 26
  | .blockOnKeyPress _ => 27
  | .setDelayTimer _ => 28
  | .setSoundTimer _ => 29
  | .addToIndexRegister _ => 30
  | .useSprite _ => 31
  | .readRegisterAsBCD _ => 32
  | .dumpRegisters _ => 33
  | .fillRegisters _ => 34

/-- The decoder's output as a hardware struct: tag 63 and an invalid bit for a DecodeError (R99). -/
def decoderOutput (w : Word) : DecoderOutput :=
  let (tag, valid) : BitVec 6 × Bool := match decode w with
    | .ok i => (i.tag, true)
    | .error _ => (63, false)
  { tag, valid, x := w.x, y := w.y, n := w.n, kk := w.kk, nnn := w.nnn }

/-- What this decoder reads from an instruction whose bits are `w`, bit 0 the least significant of the (only) word. The
word is laid out as memory holds it, high byte first, and given to the byte decoder. -/
def decodeTableWord (nbits w : Nat) : Option Instr :=
  let word : Word := BitVec.ofNat 16 (w % 2 ^ nbits)
  match decodeBytes [word.hiByte, word.loByte] with
  | .ok (i, _) => some i
  | .error _ => none

/-! The assembly text (R103): the Operation's name, then its fields, a register as `V0`..`VF`, an immediate or address in
hex with `0x`, a height in decimal. -/

/-- One upper-case hex digit. -/
def hexDigit (d : Nat) : String :=
  if d = 10 then "A" else if d = 11 then "B" else if d = 12 then "C" else if d = 13 then "D"
  else if d = 14 then "E" else if d = 15 then "F" else d.repr

def asmReg (x : Nibble) : String := "V" ++ hexDigit x.toNat

def asmImm8 (kk : Byte) : String := "0x" ++ hexDigit (kk.toNat / 16) ++ hexDigit (kk.toNat % 16)

def asmAddr (nnn : Addr12) : String :=
  "0x" ++ hexDigit (nnn.toNat / 256) ++ hexDigit (nnn.toNat / 16 % 16) ++ hexDigit (nnn.toNat % 16)

def asmX (name : String) (x : Nibble) : String := name ++ " " ++ asmReg x

def asmXY (name : String) (x y : Nibble) : String := asmX name x ++ ", " ++ asmReg y

def asmXKK (name : String) (x : Nibble) (kk : Byte) : String := asmX name x ++ ", " ++ asmImm8 kk

def asmNNN (name : String) (nnn : Addr12) : String := name ++ " " ++ asmAddr nnn

/-- The assembly text of an Operation (R103). -/
def Instr.asm : Instr → String
  | .clearDisplay => "ClearDisplay"
  | .returnFromSubroutine => "ReturnFromSubroutine"
  | .call nnn => asmNNN "Call" nnn
  | .jump nnn => asmNNN "Jump" nnn
  | .callSubroutine nnn => asmNNN "CallSubroutine" nnn
  | .skipIfEqualImmediate x kk => asmXKK "SkipIfEqualImmediate" x kk
  | .skipIfNotEqualImmediate x kk => asmXKK "SkipIfNotEqualImmediate" x kk
  | .skipIfRegistersEqual x y => asmXY "SkipIfRegistersEqual" x y
  | .setImmediate x kk => asmXKK "SetImmediate" x kk
  | .addImmediate x kk => asmXKK "AddImmediate" x kk
  | .copy x y => asmXY "Copy" x y
  | .or x y => asmXY "Or" x y
  | .and x y => asmXY "And" x y
  | .xor x y => asmXY "Xor" x y
  | .addWithCarry x y => asmXY "AddWithCarry" x y
  | .subtractWithBorrow x y => asmXY "SubtractWithBorrow" x y
  | .shiftRight x y => asmXY "ShiftRight" x y
  | .reverseSubtract x y => asmXY "ReverseSubtract" x y
  | .shiftLeft x y => asmXY "ShiftLeft" x y
  | .skipIfRegistersNotEqual x y => asmXY "SkipIfRegistersNotEqual" x y
  | .setIndex nnn => asmNNN "SetIndex" nnn
  | .jumpPlusV0 nnn => asmNNN "JumpPlusV0" nnn
  | .randomMask x kk => asmXKK "RandomMask" x kk
  | .drawSprite x y n => asmXY "DrawSprite" x y ++ ", " ++ n.toNat.repr
  | .skipIfKeyDown x => asmX "SkipIfKeyDown" x
  | .skipIfKeyUp x => asmX "SkipIfKeyUp" x
  | .readDelayTimer x => asmX "ReadDelayTimer" x
  | .blockOnKeyPress x => asmX "BlockOnKeyPress" x
  | .setDelayTimer x => asmX "SetDelayTimer" x
  | .setSoundTimer x => asmX "SetSoundTimer" x
  | .addToIndexRegister x => asmX "AddToIndexRegister" x
  | .useSprite x => asmX "UseSprite" x
  | .readRegisterAsBCD x => asmX "ReadRegisterAsBCD" x
  | .dumpRegisters x => asmX "DumpRegisters" x
  | .fillRegisters x => asmX "FillRegisters" x

end Sys2Proof
end

