-- ==== Sys2Proof/Config.lean ====
section
/-! DEFINITION. What an implementation fixes (`STACK_DEPTH`, `FONT`), the fixed sizes, the commands the
environment can issue, and the free values. -/

namespace Sys2Proof

/-- `MEM_SIZE` (spec/00_scope.md R7). -/
def memSize : Nat := 4096

/-- `PROGRAM_START` (spec/00_scope.md R7). -/
def programStart : Word := 0x200

/-- The two parameters of the hardware (spec/00_scope.md R8, R9). A machine carries its parameters as plain data, so
that every statement over all states is a statement over every `STACK_DEPTH` and every `FONT`, as
spec/20_memory.md R78 asks (notes/assumptions/1.md, 2.md). -/
structure Config where
  /-- `STACK_DEPTH`: how many return addresses the stack can hold (R8: at least 1). -/
  stackDepth : Nat
  /-- `FONT`: the 80 bytes that reset leaves at 0x000..0x04F (R9, R78). -/
  font : Vector Byte 80
deriving DecidableEq, Repr

/-- The five commands the block accepts (spec/10_state.md R47). -/
inductive Machine.Command where
  | reset
  | step (rnd : Byte)
  | tick
  | keyEvent (k : Nibble) (down : Bool)
  | hostWrite (addr : Word) (b : Byte)
deriving DecidableEq, Repr, Inhabited

/-- FREE VALUE (DESIGN CHOICE of form, notes/assumptions/25.md): the `n`-th of the commands that the environment issues
without having spelled them out in `inbox`. It has no body, so nothing can be proved of which commands come, in which
order, or with which operands: a claim about a run that never ends holds for every interleaving (R47, R206, and R10 for
the `rnd` of its Steps). -/
opaque Config.freeCommand : Nat → Machine.Command

/-- FREE VALUE (DESIGN CHOICE of form, notes/assumptions/21.md): the `rnd` of the Step that `withFetchWord` puts before a
placed instruction. It has no body (R10: a draw, "a free input under no law"). -/
opaque Config.freeRnd : Nat → Byte

end Sys2Proof
end

