-- ==== Sys2Proof/Machine/Reference.lean ====
section
/-! DEFINITION. The reference configuration (spec/00_scope.md R8, R9; spec/20_memory.md R78) and the byte that reset
leaves at each address (spec/10_state.md R42, R54). -/

namespace Sys2Proof.Machine

/-- The reference `FONT`: the conventional hex font, row k the glyph k (R78; PRESUMED, the spec marks the bytes as general
knowledge, notes/assumptions/1.md). -/
def referenceFont : Vector Byte 80 := #v[
  0xF0, 0x90, 0x90, 0x90, 0xF0,
  0x20, 0x60, 0x20, 0x20, 0x70,
  0xF0, 0x10, 0xF0, 0x80, 0xF0,
  0xF0, 0x10, 0xF0, 0x10, 0xF0,
  0x90, 0x90, 0xF0, 0x10, 0x10,
  0xF0, 0x80, 0xF0, 0x10, 0xF0,
  0xF0, 0x80, 0xF0, 0x90, 0xF0,
  0xF0, 0x10, 0x20, 0x40, 0x40,
  0xF0, 0x90, 0xF0, 0x90, 0xF0,
  0xF0, 0x90, 0xF0, 0x10, 0xF0,
  0xF0, 0x90, 0xF0, 0x90, 0x90,
  0xE0, 0x90, 0xE0, 0x90, 0xE0,
  0xF0, 0x80, 0x80, 0x80, 0xF0,
  0xE0, 0x90, 0x90, 0x90, 0xE0,
  0xF0, 0x80, 0xF0, 0x80, 0xF0,
  0xF0, 0x80, 0xF0, 0x80, 0x80]

/-- The reference configuration: `STACK_DEPTH = 16` (R8) and the reference `FONT` (notes/assumptions/1.md, 2.md). -/
def referenceConfig : Config := { stackDepth := 16, font := referenceFont }

/-- What an address reads as when nothing has been stored there since reset: the font, then zero (R42, R54). This is the
one definition of what an unlisted address of memory reads as. -/
def resetByte (cfg : Config) (a : Nat) : Byte := if h : a < 80 then cfg.font[a] else 0x00

end Sys2Proof.Machine
end

