-- ==== Sys2Proof/Machine/State.lean ====
section
/-! DEFINITION. The state of the machine (spec/10_state.md R30), the reasons a step could stop, and the state after
reset (R54). -/

namespace Sys2Proof.Machine

/-- The fault causes (spec/60_exceptions.md R241). -/
inductive Cause where
  | illegalInstruction
  | stackUnderflow
  | stackOverflow
  | keyIndexOutOfRange
  | drawRowOutOfRange
  /-- Reserved, never raised (R128). -/
  | unrecognizedOperation
deriving DecidableEq, Repr

/-- The run state (spec/10_state.md R40). -/
inductive RunState where
  | running
  /-- Waiting for a new key-down; `t` will receive the key's index. -/
  | awaitingKey (t : Nibble)
  /-- Stopped by a fault: its cause, the faulting word, the address it was fetched from. -/
  | halted (cause : Cause) (word fpc : Word)
deriving DecidableEq, Repr

/-- Memory as address and byte pairs, addresses strictly rising, none equal to what an unlisted address reads as
(`Memory.wf` in Machine/Ops.lean). -/
abbrev Memory := List Host.Cell

/-- The machine's state. The first ten fields are the tuple of spec/10_state.md R30 and carry its names; the last four are
THE MODEL'S OWN (notes/assumptions/2.md, 21.md, 25.md): the parameters, the input port of the Step being run, and the
environment's commands. -/
structure State where
  /-- The 4096-byte memory (R42). -/
  mem   : Memory
  /-- The general registers V0..VF (R31). -/
  V     : Vector Byte 16
  /-- The index register (R35). -/
  I     : Word
  /-- The program counter (R34). -/
  pc    : Word
  /-- The return addresses, the last pushed at the end (R36, R12). -/
  stack : List Word
  /-- The delay timer (R37). -/
  DT    : Byte
  /-- The sound timer (R38). -/
  ST    : Byte
  /-- The framebuffer (R39). -/
  gfx   : Bitmap
  /-- The key-down bits (R41). -/
  keys  : Vector Bool 16
  /-- The run state (R40). -/
  run   : RunState
  /-- Model's own: the parameters of this machine (R8, R9); nothing writes them. -/
  cfg   : Config
  /-- Model's own: the input `rnd` of the Step being run (R10). -/
  rnd   : Byte
  /-- Model's own: how many commands have been taken from `Config.freeCommand`. -/
  draws : Nat
  /-- Model's own: the environment's next commands as far as they are spelled out, the first one first (R47); what comes
  after them is `Config.freeCommand`. -/
  inbox : List Command
deriving DecidableEq, Repr

/-- Why the model stops: never. Every error of this hardware is a run state (spec/60_exceptions.md R243): the Step that
raises it ends in a next state, and so does every later command. No constructor, so no statement can hide behind one. -/
inductive Fault where
deriving DecidableEq, Repr

/-- Why the model declines an instruction. -/
inductive Refusal where
  /-- Raised by an arm of `exec` whose instruction has no meaning yet; no arm raises it (safe: a stop proves nothing). -/
  | notModelled (mnemonic : String)
deriving DecidableEq, Repr

/-- The state Reset gives, for the parameters of a machine (R54, R270), with no command waiting. -/
def State.initial (cfg : Config) : State where
  mem   := []
  V     := Vector.replicate 16 0x00
  I     := 0x0000
  pc    := programStart
  stack := []
  DT    := 0x00
  ST    := 0x00
  gfx   := Vector.replicate 32 0
  keys  := Vector.replicate 16 false
  run   := .running
  cfg   := cfg
  rnd   := 0x00
  draws := 0
  inbox := []

/-- The machine right after reset, in the reference configuration. -/
def State.reset : State := State.initial referenceConfig

end Sys2Proof.Machine
end

