-- ==== Sys2Proof/Machine/Ops.lean ====
section
/-! DEFINITION. The named operations over memory, registers, the stack, the framebuffer, the keys and the program counter,
fault entry, and the way back from it. -/

namespace Sys2Proof.Machine

/-! Memory (spec/00_scope.md R13). `d` is what an unlisted address reads as. -/

/-- The byte at address `a`. -/
def Memory.read (d : Nat → Byte) : Memory → Nat → Byte
  | [], a => d a
  | (k, b) :: m, a => if k = a then b else Memory.read d m a

/-- Put `(a, b)` before the first entry with a higher address. -/
def Memory.insert (a : Nat) (b : Byte) : Memory → Memory
  | [] => [(a, b)]
  | (k, c) :: m => if a < k then (a, b) :: (k, c) :: m else (k, c) :: Memory.insert a b m

/-- Set the byte at `a`; a byte that is what an unlisted address reads as is not listed. -/
def Memory.write (d : Nat → Byte) (m : Memory) (a : Nat) (b : Byte) : Memory :=
  let rest := m.filter (fun c => c.1 != a)
  if b = d a then rest else Memory.insert a b rest

/-- From `lo` on: addresses strictly rising, inside the address space, no entry that an unlisted address would read as. -/
def Memory.wfFrom (d : Nat → Byte) : Nat → Memory → Bool
  | _, [] => true
  | lo, (k, b) :: m => decide (lo ≤ k) && decide (k < memSize) && decide (b ≠ d k) && Memory.wfFrom d (k + 1) m

/-- The canonical form: equal memories are equal lists. -/
def Memory.wf (d : Nat → Byte) (m : Memory) : Bool := Memory.wfFrom d 0 m

/-- The 12-bit address that reaches the array (spec/20_memory.md R72; for the fetch and HostWrite notes/assumptions/4.md). -/
def reduce (addr : Word) : Nat := addr.toNat % memSize

/-- `MemRead(addr, 1)` (R13). -/
def State.load (s : State) (addr : Word) : Byte := Memory.read (resetByte s.cfg) s.mem (reduce addr)

/-- `MemWrite(addr, 1, v)` (R13). -/
def State.store (s : State) (addr : Word) (v : Byte) : State :=
  { s with mem := Memory.write (resetByte s.cfg) s.mem (reduce addr) v }

/-- The instruction word at the program counter (R71, R121): `pc + 1` is formed before the reduction. -/
def State.fetchWord (s : State) : Word := wordOfBytes (s.load s.pc) (s.load (s.pc + 1))

/-! General registers (spec/10_state.md R31: sixteen plain cells, none hard-wired). -/

/-- `V[i]`. -/
def State.reg (s : State) (i : Nibble) : Byte := s.V[i.toNat]'i.isLt

/-- `V[i] <- v`. -/
def State.setReg (s : State) (i : Nibble) (v : Byte) : State := { s with V := s.V.set i.toNat v i.isLt }

/-- The index of the flag register VF (R32). -/
def VF : Nibble := 0xF

/-- `V[x] <- r`, then `VF <- f`, the flag last (spec/42_alu.md R160; notes/assumptions/10.md). -/
def State.setResultFlag (s : State) (x : Nibble) (r f : Byte) : State := (s.setReg x r).setReg VF f

/-! Program counter. A meaning runs on the state before the ADVANCE, so `pc` is `fpc` there (notes/assumptions/27.md). -/

/-- `npc = (fpc + 2) mod 65536` (spec/40_execute_cycle.md R122). -/
def State.npc (s : State) : Word := s.pc + 2

/-- `pc <- target`. -/
def State.setPc (s : State) (target : Word) : State := { s with pc := target }

/-- The ADVANCE of an instruction that does not write `pc` itself (R124). -/
def State.advance (s : State) : State := s.setPc s.npc

/-- `skip(c)` (R127). -/
def State.skip (s : State) (c : Bool) : State := s.setPc (if c then s.npc + 2 else s.npc)

/-! Fault entry, and the way back. -/

/-- `raise c`: TAKING A FAULT. Nothing of the Step is committed; the run state records the cause, the fetched word and its
address (spec/60_exceptions.md R242, R243; R125). There is no vector and no saved register. -/
def State.raise (s : State) (c : Cause) : State := { s with run := .halted c s.fetchWord s.pc }

/-- Reset: THE ONLY WAY BACK FROM A FAULT (R246), from every run state (spec/70_reset_and_hazards.md R270). The machine's
parameters and the environment's inputs are no state of the block and stay. -/
def State.toReset (s : State) : State :=
  { State.initial s.cfg with rnd := s.rnd, draws := s.draws, inbox := s.inbox }

/-! The return-address stack (spec/10_state.md R36, R12). -/

/-- `push(v)`. -/
def State.push (s : State) (v : Word) : State := { s with stack := s.stack ++ [v] }

/-- Whether a push would exceed `STACK_DEPTH` (spec/41_flow.md R141, R142; notes/assumptions/2.md). -/
def State.stackFull (s : State) : Bool := decide (s.cfg.stackDepth ≤ s.stack.length)

/-- The subroutine call of R141 and R142: the overflow check first, then push and jump. -/
def State.callTo (s : State) (target : Word) : State :=
  if s.stackFull then s.raise .stackOverflow else (s.push s.npc).setPc target

/-- The return of R140: `pc <- pop()`, the last element. -/
def State.returnToCaller (s : State) : State :=
  match s.stack.getLast? with
  | none => s.raise .stackUnderflow
  | some v => { s with stack := s.stack.dropLast, pc := v }

/-! Timers, index register, keys, run state. -/

def State.setI (s : State) (v : Word) : State := { s with I := v }

def State.setDT (s : State) (v : Byte) : State := { s with DT := v }

def State.setST (s : State) (v : Byte) : State := { s with ST := v }

/-- `keys[k]` (R41). -/
def State.key (s : State) (k : Nibble) : Bool := s.keys[k.toNat]'k.isLt

/-- `keys[k] <- down`. -/
def State.setKey (s : State) (k : Nibble) (down : Bool) : State := { s with keys := s.keys.set k.toNat down k.isLt }

/-- `run <- AwaitingKey(t)`. -/
def State.awaitKey (s : State) (t : Nibble) : State := { s with run := .awaitingKey t }

/-- A key skip on the key whose index is `V[x]`: the range check first, then the skip (spec/44_keys_timers.md R200, R201;
notes/assumptions/15.md). -/
def State.skipOnKey (s : State) (x : Nibble) (down : Bool) : State :=
  if 0x0F < (s.reg x).toNat then s.raise .keyIndexOutOfRange
  else s.skip (s.key ((s.reg x).setWidth 4) == down)

/-! The framebuffer (R39). -/

/-- `gfx[px, py]`. -/
def Bitmap.cell (g : Bitmap) (px py : Nat) : Bool := if h : py < 32 then g[py].getLsbD px else false

/-- `gfx[px, py] <- gfx[px, py] XOR 1`. -/
def Bitmap.toggle (g : Bitmap) (px py : Nat) : Bitmap :=
  if h : py < 32 then g.set py (g[py] ^^^ BitVec.twoPow 64 px) else g

def State.cell (s : State) (px py : Nat) : Bool := Bitmap.cell s.gfx px py

/-- The cell with linear index `y * 64 + x` (R39: row-major). -/
def State.cellAt (s : State) (index : Nat) : Bool := s.cell (index % 64) (index / 64)

def State.setGfx (s : State) (g : Bitmap) : State := { s with gfx := g }

/-- What a DrawSprite works on: the framebuffer and the collision so far (`c_flag` of spec/43_display.md R193). -/
structure Canvas where
  gfx : Bitmap
  hit : Bool
deriving DecidableEq, Repr

/-- Column `c` of a sprite row `b` whose left edge is `x0`, on framebuffer row `py`: a one bit toggles its cell and reports a
cell that was set; bit 7 is the leftmost pixel (R192, notes/assumptions/13.md), columns wrap at 64 (R193,
notes/assumptions/14.md). -/
def drawPixel (x0 py : Nat) (b : Byte) (k : Canvas) (c : Nat) : Canvas :=
  if b.getLsbD (7 - c) then
    { gfx := Bitmap.toggle k.gfx ((x0 + c) % 64) py, hit := k.hit || Bitmap.cell k.gfx ((x0 + c) % 64) py }
  else k

/-- The eight columns of one sprite row, left to right. -/
def drawRow (x0 py : Nat) (b : Byte) (k : Canvas) : Canvas := (List.range 8).foldl (drawPixel x0 py b) k

/-- Rows `0..n-1` of a sprite, `byteOf r` the byte of row `r`, drawn at column `x0` from row `y0` down (R191, R193). -/
def drawRows (x0 y0 : Nat) (byteOf : Nat → Byte) (n : Nat) (k : Canvas) : Canvas :=
  (List.range n).foldl (fun k r => drawRow x0 (y0 + r) (byteOf r) k) k

end Sys2Proof.Machine
end

