-- ==== Sys2Proof/Machine/Operands.lean ====
section
/-! DEFINITION. The operand forms: how a field of an Operation becomes a value or an address (spec/30_encoding.md R92). -/

namespace Sys2Proof.Machine

/-- An address operand where it meets `pc` or `I`: `zext_16(nnn)` (R92). -/
def addr16 (nnn : Addr12) : Word := nnn.setWidth 16

/-- A register operand widened to 16 bits: `zext_16(V[x])`. -/
def State.reg16 (s : State) (x : Nibble) : Word := (s.reg x).setWidth 16

/-- The address `I + i` of the `i`-th byte of a memory-indexed operation, before the reduction (spec/20_memory.md R72). -/
def State.indexed (s : State) (i : Nat) : Word := s.I + BitVec.ofNat 16 i

/-- The three decimal digits of a byte, hundreds first (spec/45_index_memory.md R223). -/
def hundreds (v : Byte) : Byte := BitVec.ofNat 8 (v.toNat / 100)

def tens (v : Byte) : Byte := BitVec.ofNat 8 (v.toNat / 10 % 10)

def ones (v : Byte) : Byte := BitVec.ofNat 8 (v.toNat % 10)

/-- Bytes `f 0 .. f (n-1)` stored at `I + 0 .. I + (n-1)`, ascending (R75, R76). -/
def State.storeRun (s : State) (f : Nat → Byte) (n : Nat) : State :=
  (List.range n).foldl (fun t i => t.store (s.indexed i) (f i)) s

/-- `V[i] <- MemRead(I + i, 1)` for `i = 0..n-1`, ascending (spec/45_index_memory.md R225). -/
def State.loadRun (s : State) (n : Nat) : State :=
  (List.range n).foldl (fun t i => t.setReg (BitVec.ofNat 4 i) (s.load (s.indexed i))) s

/-- The three digits of a byte by place: 0 hundreds, 1 tens, 2 ones. -/
def bcdDigit (v : Byte) (i : Nat) : Byte := if i = 0 then hundreds v else if i = 1 then tens v else ones v

/-- Whether a sprite of height `n` at row `y0` has a row beyond 31 (spec/43_display.md R193; notes/assumptions/14.md). -/
def spriteTooLow (y0 : Nat) (n : Nibble) : Bool := decide (0 < n.toNat ∧ 31 < y0 + n.toNat - 1)

end Sys2Proof.Machine
end

