-- ==== Sys2Proof/Machine/Alu.lean ====
section
/-! DEFINITION. Register and ALU operations (spec/42_alu.md). None writes `pc`, touches memory or can fault. -/

namespace Sys2Proof.Machine

/-- R161. -/
def execSetImmediate (x : Nibble) (kk : Byte) (s : State) : Host.Outcome State Fault Refusal :=
  .next (s.setReg x kk).advance

/-- R162: 8-bit wrap, no flag. -/
def execAddImmediate (x : Nibble) (kk : Byte) (s : State) : Host.Outcome State Fault Refusal :=
  .next (s.setReg x (s.reg x + kk)).advance

/-- R163. -/
def execCopy (x y : Nibble) (s : State) : Host.Outcome State Fault Refusal :=
  .next (s.setReg x (s.reg y)).advance

/-- R164; VF is no destination here (notes/assumptions/11.md). -/
def execOr (x y : Nibble) (s : State) : Host.Outcome State Fault Refusal :=
  .next (s.setReg x (s.reg x ||| s.reg y)).advance

/-- R165; as R164 for VF. -/
def execAnd (x y : Nibble) (s : State) : Host.Outcome State Fault Refusal :=
  .next (s.setReg x (s.reg x &&& s.reg y)).advance

/-- R166; as R164 for VF. -/
def execXor (x y : Nibble) (s : State) : Host.Outcome State Fault Refusal :=
  .next (s.setReg x (s.reg x ^^^ s.reg y)).advance

/-- R167. -/
def execAddWithCarry (x y : Nibble) (s : State) : Host.Outcome State Fault Refusal :=
  .next (s.setResultFlag x (s.reg x + s.reg y) (carryFlag (s.reg x) (s.reg y))).advance

/-- R168. -/
def execSubtractWithBorrow (x y : Nibble) (s : State) : Host.Outcome State Fault Refusal :=
  .next (s.setResultFlag x (s.reg x - s.reg y) (noBorrowFlag (s.reg x) (s.reg y))).advance

/-- R169: the source is `V[y]`, which is not written. -/
def execShiftRight (x y : Nibble) (s : State) : Host.Outcome State Fault Refusal :=
  .next (s.setResultFlag x (s.reg y >>> 1) (shiftedOutLow (s.reg y))).advance

/-- R170. -/
def execReverseSubtract (x y : Nibble) (s : State) : Host.Outcome State Fault Refusal :=
  .next (s.setResultFlag x (s.reg y - s.reg x) (noBorrowFlag (s.reg y) (s.reg x))).advance

/-- R171: `V[x]` and `V[y]` both take the shifted value (spec/90_conflicts.md C4), then VF the flag. -/
def execShiftLeft (x y : Nibble) (s : State) : Host.Outcome State Fault Refusal :=
  .next ((s.setReg x (s.reg y <<< 1)).setResultFlag y (s.reg y <<< 1) (shiftedOutHigh (s.reg y))).advance

/-- R172: `rnd` is the input of this Step, a free value (notes/assumptions/21.md). -/
def execRandomMask (x : Nibble) (kk : Byte) (s : State) : Host.Outcome State Fault Refusal :=
  .next (s.setReg x (s.rnd &&& kk)).advance

end Sys2Proof.Machine
end

