-- ==== Sys2Proof/Machine/Display.lean ====
section
/-! DEFINITION. Framebuffer operations (spec/43_display.md). -/

namespace Sys2Proof.Machine

/-- R190. -/
def execClearDisplay (s : State) : Host.Outcome State Fault Refusal :=
  .next (s.setGfx (Vector.replicate 32 0)).advance

/-- The framebuffer and collision after DrawSprite's loops (R193): coordinates and sprite bytes as before the instruction. -/
def State.drawn (s : State) (x y n : Nibble) : Canvas :=
  drawRows (s.reg x).toNat (s.reg y).toNat (fun r => s.load (s.indexed r)) n.toNat { gfx := s.gfx, hit := false }

/-- R193: the row check before any write; VF is written last. -/
def execDrawSprite (x y n : Nibble) (s : State) : Host.Outcome State Fault Refusal :=
  .next (if spriteTooLow (s.reg y).toNat n then s.raise .drawRowOutOfRange
    else ((s.setGfx (s.drawn x y n).gfx).setReg VF (flagByte (s.drawn x y n).hit)).advance)

end Sys2Proof.Machine
end

