-- ==== Sys2Proof/Machine/Flow.lean ====
section
/-! DEFINITION. Control flow (spec/41_flow.md). Each meaning runs on the state before the ADVANCE: `pc` is `fpc`. -/

namespace Sys2Proof.Machine

/-- R140. -/
def execReturnFromSubroutine (s : State) : Host.Outcome State Fault Refusal := .next s.returnToCaller

/-- R141: the 0x0nnn "machine-code call" is a plain subroutine call (spec/90_conflicts.md C8). -/
def execCall (nnn : Addr12) (s : State) : Host.Outcome State Fault Refusal := .next (s.callTo (addr16 nnn))

/-- R142. -/
def execCallSubroutine (nnn : Addr12) (s : State) : Host.Outcome State Fault Refusal := .next (s.callTo (addr16 nnn))

/-- R143. -/
def execJump (nnn : Addr12) (s : State) : Host.Outcome State Fault Refusal := .next (s.setPc (addr16 nnn))

/-- R144: the sum is not reduced. -/
def execJumpPlusV0 (nnn : Addr12) (s : State) : Host.Outcome State Fault Refusal :=
  .next (s.setPc (addr16 nnn + s.reg16 0x0))

/-- R145. -/
def execSkipIfEqualImmediate (x : Nibble) (kk : Byte) (s : State) : Host.Outcome State Fault Refusal :=
  .next (s.skip (s.reg x == kk))

/-- R146. -/
def execSkipIfNotEqualImmediate (x : Nibble) (kk : Byte) (s : State) : Host.Outcome State Fault Refusal :=
  .next (s.skip (s.reg x != kk))

/-- R147. -/
def execSkipIfRegistersEqual (x y : Nibble) (s : State) : Host.Outcome State Fault Refusal :=
  .next (s.skip (s.reg x == s.reg y))

/-- R148. -/
def execSkipIfRegistersNotEqual (x y : Nibble) (s : State) : Host.Outcome State Fault Refusal :=
  .next (s.skip (s.reg x != s.reg y))

end Sys2Proof.Machine
end

