-- ==== Sys2Proof/Machine/IndexMemory.lean ====
section
/-! DEFINITION. Index register and memory transfer (spec/45_index_memory.md). -/

namespace Sys2Proof.Machine

/-- R220. -/
def execSetIndex (nnn : Addr12) (s : State) : Host.Outcome State Fault Refusal := .next (s.setI (addr16 nnn)).advance

/-- R221: 16 bits, wraps, no flag (notes/assumptions/12.md). -/
def execAddToIndexRegister (x : Nibble) (s : State) : Host.Outcome State Fault Refusal :=
  .next (s.setI (s.I + s.reg16 x)).advance

/-- R222: `V[x]` is not reduced to a nibble. -/
def execUseSprite (x : Nibble) (s : State) : Host.Outcome State Fault Refusal :=
  .next (s.setI (5 * s.reg16 x)).advance

/-- R223: hundreds, tens, ones at `I`, `I + 1`, `I + 2`. -/
def execReadRegisterAsBCD (x : Nibble) (s : State) : Host.Outcome State Fault Refusal :=
  .next (s.storeRun (bcdDigit (s.reg x)) 3).advance

/-- R224: `V[0]..V[x]`, `I` unchanged (notes/assumptions/18.md). -/
def execDumpRegisters (x : Nibble) (s : State) : Host.Outcome State Fault Refusal :=
  .next (s.storeRun (fun i => s.reg (BitVec.ofNat 4 i)) (x.toNat + 1)).advance

/-- R225: `V[0]..V[x]`, `I` unchanged (notes/assumptions/18.md). -/
def execFillRegisters (x : Nibble) (s : State) : Host.Outcome State Fault Refusal :=
  .next (s.loadRun (x.toNat + 1)).advance

end Sys2Proof.Machine
end

