-- ==== Sys2Proof/Machine/KeysTimers.lean ====
section
/-! DEFINITION. Keys, timers and the key wait: the instructions (spec/44_keys_timers.md). -/

namespace Sys2Proof.Machine

/-- R200. -/
def execSkipIfKeyDown (x : Nibble) (s : State) : Host.Outcome State Fault Refusal := .next (s.skipOnKey x true)

/-- R201. -/
def execSkipIfKeyUp (x : Nibble) (s : State) : Host.Outcome State Fault Refusal := .next (s.skipOnKey x false)

/-- R202. -/
def execReadDelayTimer (x : Nibble) (s : State) : Host.Outcome State Fault Refusal := .next (s.setReg x s.DT).advance

/-- R203. -/
def execSetDelayTimer (x : Nibble) (s : State) : Host.Outcome State Fault Refusal := .next (s.setDT (s.reg x)).advance

/-- R204. -/
def execSetSoundTimer (x : Nibble) (s : State) : Host.Outcome State Fault Refusal := .next (s.setST (s.reg x)).advance

/-- R207: `V[x]` is written later, by the KeyEvent that ends the wait. -/
def execBlockOnKeyPress (x : Nibble) (s : State) : Host.Outcome State Fault Refusal := .next (s.awaitKey x).advance

end Sys2Proof.Machine
end

