-- ==== Sys2Proof/Machine/Dispatch.lean ====
section
/-! DEFINITION. EXECUTE (spec/40_execute_cycle.md R124): one arm per Operation. The state is the one before the ADVANCE. -/

namespace Sys2Proof.Machine

def exec (i : Instr) (s : State) : Host.Outcome State Fault Refusal :=
  match i with
  | .clearDisplay => Sys2Proof.Machine.execClearDisplay s
  | .returnFromSubroutine => Sys2Proof.Machine.execReturnFromSubroutine s
  | .call nnn => Sys2Proof.Machine.execCall nnn s
  | .jump nnn => Sys2Proof.Machine.execJump nnn s
  | .callSubroutine nnn => Sys2Proof.Machine.execCallSubroutine nnn s
  | .skipIfEqualImmediate x kk => Sys2Proof.Machine.execSkipIfEqualImmediate x kk s
  | .skipIfNotEqualImmediate x kk => Sys2Proof.Machine.execSkipIfNotEqualImmediate x kk s
  | .skipIfRegistersEqual x y => Sys2Proof.Machine.execSkipIfRegistersEqual x y s
  | .setImmediate x kk => Sys2Proof.Machine.execSetImmediate x kk s
  | .addImmediate x kk => Sys2Proof.Machine.execAddImmediate x kk s
  | .copy x y => Sys2Proof.Machine.execCopy x y s
  | .or x y => Sys2Proof.Machine.execOr x y s
  | .and x y => Sys2Proof.Machine.execAnd x y s
  | .xor x y => Sys2Proof.Machine.execXor x y s
  | .addWithCarry x y => Sys2Proof.Machine.execAddWithCarry x y s
  | .subtractWithBorrow x y => Sys2Proof.Machine.execSubtractWithBorrow x y s
  | .shiftRight x y => Sys2Proof.Machine.execShiftRight x y s
  | .reverseSubtract x y => Sys2Proof.Machine.execReverseSubtract x y s
  | .shiftLeft x y => Sys2Proof.Machine.execShiftLeft x y s
  | .skipIfRegistersNotEqual x y => Sys2Proof.Machine.execSkipIfRegistersNotEqual x y s
  | .setIndex nnn => Sys2Proof.Machine.execSetIndex nnn s
  | .jumpPlusV0 nnn => Sys2Proof.Machine.execJumpPlusV0 nnn s
  | .randomMask x kk => Sys2Proof.Machine.execRandomMask x kk s
  | .drawSprite x y n => Sys2Proof.Machine.execDrawSprite x y n s
  | .skipIfKeyDown x => Sys2Proof.Machine.execSkipIfKeyDown x s
  | .skipIfKeyUp x => Sys2Proof.Machine.execSkipIfKeyUp x s
  | .readDelayTimer x => Sys2Proof.Machine.execReadDelayTimer x s
  | .blockOnKeyPress x => Sys2Proof.Machine.execBlockOnKeyPress x s
  | .setDelayTimer x => Sys2Proof.Machine.execSetDelayTimer x s
  | .setSoundTimer x => Sys2Proof.Machine.execSetSoundTimer x s
  | .addToIndexRegister x => Sys2Proof.Machine.execAddToIndexRegister x s
  | .useSprite x => Sys2Proof.Machine.execUseSprite x s
  | .readRegisterAsBCD x => Sys2Proof.Machine.execReadRegisterAsBCD x s
  | .dumpRegisters x => Sys2Proof.Machine.execDumpRegisters x s
  | .fillRegisters x => Sys2Proof.Machine.execFillRegisters x s

end Sys2Proof.Machine
end

