-- ==== Sys2Proof/Machine/Commands.lean ====
section
/-! DEFINITION. The five commands and the three read ports of the block (spec/10_state.md R47 to R53). -/

namespace Sys2Proof.Machine

/-- The code the status port reports for a cause (spec/60_exceptions.md R241). -/
def Cause.code : Cause → Byte
  | .illegalInstruction => 1
  | .stackUnderflow => 2
  | .stackOverflow => 3
  | .keyIndexOutOfRange => 4
  | .drawRowOutOfRange => 5
  | .unrecognizedOperation => 6

/-- The state a Step runs its instruction on: `rnd` at the input port (R10). -/
def State.withRnd (s : State) (rnd : Byte) : State := { s with rnd := rnd }

/-- FETCH, DECODE and EXECUTE of one instruction (spec/40_execute_cycle.md R120 to R125): a DecodeError raises
IllegalInstruction, and no execution check is then made (R244). -/
def State.runInstruction (s : State) : Host.Outcome State Fault Refusal :=
  match decode s.fetchWord with
  | .ok i => exec i s
  | .error _ => .next (s.raise .illegalInstruction)

/-- The command `Step(rnd)` (R49, R120): a Step that meets a run state other than Running changes nothing (R126). -/
def State.stepCommand (s : State) (rnd : Byte) : Host.Outcome State Fault Refusal :=
  match s.run with
  | .running => (s.withRnd rnd).runInstruction
  | .awaitingKey _ => .next s
  | .halted _ _ _ => .next s

/-- One timer, decremented and floored at 0 (spec/44_keys_timers.md R205). -/
def countDown (v : Byte) : Byte := if 0 < v.toNat then v - 1 else v

/-- The command `Tick` (R50, R205), in every run state. -/
def State.tick (s : State) : State := { s with DT := countDown s.DT, ST := countDown s.ST }

/-- The command `KeyEvent(k, down)` (R51, R208, R209): the key's bit, and the end of the key wait on a bit that goes from 0 to
1 (notes/assumptions/9.md). -/
def State.keyEvent (s : State) (k : Nibble) (down : Bool) : State :=
  let t := s.setKey k down
  match s.run with
  | .awaitingKey target =>
    if down && !s.key k then { t.setReg target (k.setWidth 8) with run := .running } else t
  | .running => t
  | .halted _ _ _ => t

/-- The command `HostWrite(addr, b)` (R52). -/
def State.hostWrite (s : State) (addr : Word) (b : Byte) : State := s.store addr b

/-- One command, atomic (R47). -/
def State.command (s : State) : Command → Host.Outcome State Fault Refusal
  | .reset => .next s.toReset
  | .step rnd => s.stepCommand rnd
  | .tick => .next s.tick
  | .keyEvent k down => .next (s.keyEvent k down)
  | .hostWrite addr b => .next (s.hostWrite addr b)

/-- The environment's turn when it has spelled out no command: any of the five, with any operands (R47,
notes/assumptions/25.md). -/
def State.freeTurn (s : State) : Host.Outcome State Fault Refusal :=
  { s with draws := s.draws + 1 }.command (Config.freeCommand s.draws)

/-! The read ports (R53): each shows the state as committed by the last command. -/

/-- The framebuffer port. -/
def State.framebufferPort (s : State) : Bitmap := s.gfx

/-- The sound port. -/
def State.soundPort (s : State) : Byte := s.ST

/-- Whether the audio driver plays: "while nonzero" (R53). -/
def State.soundPlays (s : State) : Bool := s.soundPort != 0

/-- The status port. -/
def State.statusPort (s : State) : RunState := s.run

/-- The cause code the status port shows, 0 for no fault (spec/60_exceptions.md R241). -/
def State.statusCode (s : State) : Byte :=
  match s.run with
  | .halted c _ _ => c.code
  | .running => 0
  | .awaitingKey _ => 0

/-- The source's flag `waiting_for_keypress` with its target (R40). -/
def State.waitingForKeypress (s : State) : Option Nibble :=
  match s.run with
  | .awaitingKey t => some t
  | .running => none
  | .halted _ _ _ => none

end Sys2Proof.Machine
end

