-- ==== Sys2Proof/Machine/Step.lean ====
section
/-! DEFINITION. One step of the machine: the environment's next command, spelled out or free. -/

namespace Sys2Proof.Machine

/-- The machine's step: one command (spec/10_state.md R47). `inbox` holds the commands that are spelled out, in their order;
after them every further command is a free value. So a claim over all states, or over runs of any length from any one
state, is a claim over every interleaving, ended or endless (notes/assumptions/25.md). -/
def step (s : State) : Host.Outcome State Fault Refusal :=
  match s.inbox with
  | [] => s.freeTurn
  | c :: rest => { s with inbox := rest }.command c

/-- `s` with an instruction placed where the next step fetches: at `pc`, high byte first, with the run state Running and a
Step as the environment's next command (notes/assumptions/26.md). -/
def State.withFetchWord (s : State) (nbits w : Nat) : State :=
  let word : Word := BitVec.ofNat 16 (w % 2 ^ nbits)
  { (s.store s.pc word.hiByte).store (s.pc + 1) word.loByte with run := .running, inbox := [.step (Config.freeRnd s.draws)] }

end Sys2Proof.Machine
end

