-- ==== Sys2Proof/Safety.lean ====
section
/-! DEFINITION. The terms claims use: what an instruction may change, when it faults, a truthful fault record, the
machine's invariant, a safe run. -/

namespace Sys2Proof.Safety

open Sys2Proof.Machine

/-! What a change leaves alone. -/

/-- The pieces of state other than the general registers. -/
inductive Piece where
  | memory | index | pc | stack | delayTimer | soundTimer | framebuffer | keys | run | parameters | inputs
deriving DecidableEq, Repr

/-- A piece reads the same in two states: memory byte by byte, the framebuffer cell by cell, the keys key by key. `inputs`
is the environment's side: `rnd`, `draws` and `inbox`. -/
def Piece.same (s t : State) : Piece → Prop
  | .memory => ∀ a, t.load a = s.load a
  | .index => t.I = s.I
  | .pc => t.pc = s.pc
  | .stack => t.stack = s.stack
  | .delayTimer => t.DT = s.DT
  | .soundTimer => t.ST = s.ST
  | .framebuffer => ∀ px py, t.cell px py = s.cell px py
  | .keys => ∀ k, t.key k = s.key k
  | .run => t.run = s.run
  | .parameters => t.cfg = s.cfg
  | .inputs => t.rnd = s.rnd ∧ t.draws = s.draws ∧ t.inbox = s.inbox

/-- Of the general registers only those of `regs`, and of the other pieces only those of `pieces`, may differ. -/
def OnlyChanges (regs : List Nibble) (pieces : List Piece) (s t : State) : Prop :=
  (∀ r, r ∉ regs → t.reg r = s.reg r) ∧ (∀ p, p ∉ pieces → p.same s t)

/-- Every byte of memory outside the `n` addresses `I + 0 .. I + n - 1` (each reduced) reads as before. -/
def MemorySameOutside (n : Nat) (s t : State) : Prop :=
  ∀ a, (∀ i, i < n → reduce a ≠ reduce (s.indexed i)) → t.load a = s.load a

/-- The sprite column that lands on framebuffer column `px` when the left edge is `x0` (spec/43_display.md R193: column `c`
lands on `(x0 + c) mod 64`). -/
def spriteColumn (x0 px : Nat) : Nat := (px + 64 - x0 % 64) % 64

/-- Whether a sprite of `n` rows at (`x0`, `y0`), row `r` the byte `byteOf r`, has a one bit on cell (`px`, `py`) (R191 to
R193: bit 7 is the leftmost pixel). -/
def spriteBit (byteOf : Nat → Byte) (x0 y0 n px py : Nat) : Bool :=
  decide (y0 ≤ py ∧ py < y0 + n ∧ spriteColumn x0 px < 8) && (byteOf (py - y0)).getLsbD (7 - spriteColumn x0 px)

/-- Every piece of state at the value Reset gives it, for the machine's own `FONT` (spec/10_state.md R54). -/
structure ResetValues (s : State) : Prop where
  memory    : ∀ a, s.load a = if h : reduce a < 80 then s.cfg.font[reduce a] else 0x00
  registers : ∀ r, s.reg r = 0x00
  index     : s.I = 0x0000
  pc        : s.pc = 0x0200
  stack     : s.stack = []
  delay     : s.DT = 0x00
  sound     : s.ST = 0x00
  display   : ∀ px py, s.cell px py = false
  keys      : ∀ k, s.key k = false
  run       : s.run = .running

/-! The tables of spec/10_state.md. -/

/-- The registers an instruction writes (R33, column "writes"; the flag writers add VF). -/
def regsWritten : Instr → List Nibble
  | .setImmediate x _ | .addImmediate x _ | .copy x _ | .or x _ | .and x _ | .xor x _ | .randomMask x _
  | .readDelayTimer x => [x]
  | .addWithCarry x _ | .subtractWithBorrow x _ | .reverseSubtract x _ | .shiftRight x _ => [x, VF]
  | .shiftLeft x y => [x, y, VF]
  | .drawSprite _ _ _ => [VF]
  | .fillRegisters x => (List.range (x.toNat + 1)).map (BitVec.ofNat 4)
  | .clearDisplay | .returnFromSubroutine | .call _ | .jump _ | .callSubroutine _ | .skipIfEqualImmediate _ _
  | .skipIfNotEqualImmediate _ _ | .skipIfRegistersEqual _ _ | .skipIfRegistersNotEqual _ _ | .setIndex _
  | .jumpPlusV0 _ | .skipIfKeyDown _ | .skipIfKeyUp _ | .blockOnKeyPress _ | .setDelayTimer _ | .setSoundTimer _
  | .addToIndexRegister _ | .useSprite _ | .readRegisterAsBCD _ | .dumpRegisters _ => []

/-- The other pieces an instruction may write (R35 to R42, R44, column "written by"; `run` where R241 gives it a fault). -/
def piecesWritten : Instr → List Piece
  | .clearDisplay => [.pc, .framebuffer]
  | .drawSprite _ _ _ => [.pc, .framebuffer, .run]
  | .returnFromSubroutine | .call _ | .callSubroutine _ => [.pc, .stack, .run]
  | .skipIfKeyDown _ | .skipIfKeyUp _ | .blockOnKeyPress _ => [.pc, .run]
  | .setDelayTimer _ => [.pc, .delayTimer]
  | .setSoundTimer _ => [.pc, .soundTimer]
  | .setIndex _ | .addToIndexRegister _ | .useSprite _ => [.pc, .index]
  | .readRegisterAsBCD _ | .dumpRegisters _ => [.pc, .memory]
  | .jump _ | .jumpPlusV0 _ | .skipIfEqualImmediate _ _ | .skipIfNotEqualImmediate _ _ | .skipIfRegistersEqual _ _
  | .skipIfRegistersNotEqual _ _ | .setImmediate _ _ | .addImmediate _ _ | .copy _ _ | .or _ _ | .and _ _ | .xor _ _
  | .addWithCarry _ _ | .subtractWithBorrow _ _ | .shiftRight _ _ | .reverseSubtract _ _ | .shiftLeft _ _
  | .randomMask _ _ | .readDelayTimer _ | .fillRegisters _ => [.pc]

/-- The instructions whose rule writes `pc` itself (R124: jumps, calls, returns, skips). -/
def writesPc : Instr → Bool
  | .returnFromSubroutine | .call _ | .callSubroutine _ | .jump _ | .jumpPlusV0 _ | .skipIfEqualImmediate _ _
  | .skipIfNotEqualImmediate _ _ | .skipIfRegistersEqual _ _ | .skipIfRegistersNotEqual _ _ | .skipIfKeyDown _
  | .skipIfKeyUp _ => true
  | .clearDisplay | .drawSprite _ _ _ | .blockOnKeyPress _ | .setDelayTimer _ | .setSoundTimer _ | .setIndex _
  | .addToIndexRegister _ | .useSprite _ | .readRegisterAsBCD _ | .dumpRegisters _ | .setImmediate _ _
  | .addImmediate _ _ | .copy _ _ | .or _ _ | .and _ _ | .xor _ _ | .addWithCarry _ _ | .subtractWithBorrow _ _
  | .shiftRight _ _ | .reverseSubtract _ _ | .shiftLeft _ _ | .randomMask _ _ | .readDelayTimer _
  | .fillRegisters _ => false

/-! Faults (spec/60_exceptions.md R241). -/

/-- The execution fault an Operation raises in a state, if any: the rows 2 to 5 of R241's table. -/
def executionFault (s : State) : Instr → Option Cause
  | .returnFromSubroutine => if s.stack.length = 0 then some .stackUnderflow else none
  | .call _ | .callSubroutine _ => if s.cfg.stackDepth ≤ s.stack.length then some .stackOverflow else none
  | .skipIfKeyDown x | .skipIfKeyUp x => if 0x0F < (s.reg x).toNat then some .keyIndexOutOfRange else none
  | .drawSprite _ y n =>
    if 0 < n.toNat ∧ 31 < (s.reg y).toNat + n.toNat - 1 then some .drawRowOutOfRange else none
  | .clearDisplay | .jump _ | .jumpPlusV0 _ | .skipIfEqualImmediate _ _ | .skipIfNotEqualImmediate _ _
  | .skipIfRegistersEqual _ _ | .skipIfRegistersNotEqual _ _ | .blockOnKeyPress _ | .setDelayTimer _
  | .setSoundTimer _ | .setIndex _ | .addToIndexRegister _ | .useSprite _ | .readRegisterAsBCD _ | .dumpRegisters _
  | .setImmediate _ _ | .addImmediate _ _ | .copy _ _ | .or _ _ | .and _ _ | .xor _ _ | .addWithCarry _ _
  | .subtractWithBorrow _ _ | .shiftRight _ _ | .reverseSubtract _ _ | .shiftLeft _ _ | .randomMask _ _
  | .readDelayTimer _ | .fillRegisters _ => none

/-- The fault of a Step that executes: the decode check first (R244). -/
def stepFault (s : State) (w : Word) : Option Cause :=
  match decode w with
  | .ok i => executionFault s i
  | .error _ => some .illegalInstruction

/-- `t` is `s` stopped by cause `c`: the record names the fetched word and its address, and nothing else is written (R125,
R243). -/
def HaltedBy (c : Cause) (s t : State) : Prop :=
  t.run = .halted c s.fetchWord s.pc ∧ OnlyChanges [] [.run] s t

/-- The run state is Halted (R247: such a run has faulted). -/
def isHalted (s : State) : Bool :=
  match s.run with
  | .halted _ _ _ => true
  | .running => false
  | .awaitingKey _ => false

/-- A halted machine shows why it stopped: `pc` is still the recorded address (R243), and the recorded cause is the one that
the recorded word has in the state as it stands (R241, R244; no command but Reset changes what a fault depends on). -/
def HaltRecordTrue (s : State) : Prop :=
  match s.run with
  | .halted c w fpc => s.pc = fpc ∧ stepFault s w = some c
  | .running => True
  | .awaitingKey _ => True

/-! The invariant. -/

/-- What every command keeps: memory in canonical form, the depth within `STACK_DEPTH` (R36), a true fault record. -/
structure Inv (s : State) : Prop where
  memory : Memory.wf (resetByte s.cfg) s.mem = true
  depth  : s.stack.length ≤ s.cfg.stackDepth
  record : HaltRecordTrue s

/-- A safe run of `n` steps: it never reaches Halted (R247). -/
def SafeRun : Nat → State → Prop
  | 0, s => isHalted s = false
  | n + 1, s => isHalted s = false ∧
    match step s with
    | .next t => SafeRun n t
    | .fault _ => False
    | .refused _ => False

/-! Orders of commands (spec/10_state.md R47). -/

/-- The commands of a list, one after the other. -/
def runCommands : List Command → State → Host.Outcome State Fault Refusal
  | [], s => .next s
  | c :: cs, s =>
    match s.command c with
    | .next t => runCommands cs t
    | .fault r => .fault r
    | .refused r => .refused r

end Sys2Proof.Safety
end

