-- ==== Sys2Proof/Certificates/Slice0/Obligations.lean ====
section
/-! DEFINITION. The statements, for the provers. Each docstring names the rule of spec/ it formalises, and the spec's decision
(92_eei_decisions.md D<n>) or the log entry (notes/assumptions/<n>.md) it rests on, if any. -/

open Sys2Proof Sys2Proof.Machine Sys2Proof.Safety

/-! ## Encoding -/

/-- R93: every field is the slice of the word that the spec names, as a number. -/
def Obligations.FieldsAreTheSpecsSlices : Prop :=
  ∀ w : Word, w.op.toNat = w.toNat / 4096 ∧ w.x.toNat = w.toNat / 256 % 16 ∧ w.y.toNat = w.toNat / 16 % 16 ∧
    w.n.toNat = w.toNat % 16 ∧ w.kk.toNat = w.toNat % 256 ∧ w.nnn.toNat = w.toNat % 4096

/-- Words written out from R96 and the vectors D-1 to D-26 of spec/95_test_vectors.md, at least one of every family. -/
def Obligations.SpecWordsDecode : Prop :=
  decode 0x00E0 = .ok .clearDisplay ∧ decode 0x00EE = .ok .returnFromSubroutine ∧ decode 0x00E1 = .ok (.call 0x0E1) ∧
  decode 0x1ABC = .ok (.jump 0xABC) ∧ decode 0x3A7F = .ok (.skipIfEqualImmediate 0xA 0x7F) ∧
  decode 0x8AB4 = .ok (.addWithCarry 0xA 0xB) ∧ decode 0x8ABE = .ok (.shiftLeft 0xA 0xB) ∧
  decode 0xC3FF = .ok (.randomMask 0x3 0xFF) ∧ decode 0xD015 = .ok (.drawSprite 0x0 0x1 5) ∧
  decode 0xE5A1 = .ok (.skipIfKeyUp 0x5) ∧ decode 0xF50A = .ok (.blockOnKeyPress 0x5) ∧
  decode 0xFA33 = .ok (.readRegisterAsBCD 0xA) ∧ decode 0x5AB1 = .error .illegalWord ∧
  decode 0x8AB8 = .error .illegalWord ∧ decode 0xF575 = .error .illegalWord

/-- Decoding an encoded well-formed instruction gives it back, as a word, as bytes in address order with any bytes behind
it, and as a word of the opcode table. -/
def Obligations.DecodeInvertsEncode : Prop :=
  ∀ i : Instr, i.wellFormed = true →
    decode (encode i) = .ok i ∧
    (∀ rest, decodeBytes ((encode i).hiByte :: (encode i).loByte :: rest) = .ok (i, rest)) ∧
    decodeTableWord 16 (encode i).toNat = some i

/-- Every word that decodes is the encoding of what it decodes to, and that is well-formed: no two words mean the same. -/
def Obligations.EncodeInvertsDecode : Prop :=
  ∀ (w : Word) (i : Instr), decode w = .ok i → encode i = w ∧ i.wellFormed = true

/-- R100: exactly these words are illegal; a Step that fetches one raises IllegalInstruction and mutates nothing else. -/
def Obligations.IllegalWordsExactly : Prop :=
  (∀ w : Word, decode w = .error .illegalWord ↔
    (w.op = 0x5 ∧ w.n ≠ 0) ∨
    (w.op = 0x8 ∧ w.n ∈ [0x8#4, 0x9#4, 0xA#4, 0xB#4, 0xC#4, 0xD#4, 0xF#4]) ∨
    (w.op = 0x9 ∧ w.n ≠ 0) ∨
    (w.op = 0xE ∧ w.kk ∉ [0x9E#8, 0xA1#8]) ∨
    (w.op = 0xF ∧ w.kk ∉ [0x07#8, 0x0A#8, 0x15#8, 0x18#8, 0x1E#8, 0x29#8, 0x33#8, 0x55#8, 0x65#8])) ∧
  (∀ (s : State) (rnd : Byte), s.run = .running → decode s.fetchWord = .error .illegalWord →
    ∃ t, s.command (.step rnd) = .next t ∧ HaltedBy .illegalInstruction (s.withRnd rnd) t)

/-- R99 (decision D30): the decoder's struct. The valid bit says whether the word decodes, the tag is the variant's number or
63, every field slice is driven, and for a valid output the struct determines the word. -/
def Obligations.DecoderStructDeterminesWord : Prop :=
  (∀ (w : Word) (i : Instr), decode w = .ok i →
    (decoderOutput w).valid = true ∧ (decoderOutput w).tag = i.tag ∧ (decoderOutput w).tag.toNat ≤ 34) ∧
  (∀ (w : Word) (e : DecodeError), decode w = .error e → (decoderOutput w).valid = false ∧ (decoderOutput w).tag = 63) ∧
  (∀ w : Word, (decoderOutput w).x = w.x ∧ (decoderOutput w).y = w.y ∧ (decoderOutput w).n = w.n ∧
    (decoderOutput w).kk = w.kk ∧ (decoderOutput w).nnn = w.nnn) ∧
  (∀ v w : Word, (decoderOutput v).valid = true → decoderOutput v = decoderOutput w → v = w)

/-! ## Memory -/

/-- R13: a read after a write gives the written byte at every address that agrees modulo 4096, and the old byte at every
other; a write changes nothing but memory; a fetch is two one-byte reads. Holds in every state, canonical or not. -/
def Obligations.LoadAfterStore : Prop :=
  ∀ (s : State) (a b : Word) (v : Byte),
    (a.toNat % 4096 = b.toNat % 4096 → (s.store a v).load b = v ∧ s.load a = s.load b) ∧
    (a.toNat % 4096 ≠ b.toNat % 4096 → (s.store a v).load b = s.load b) ∧
    OnlyChanges [] [.memory] s (s.store a v) ∧
    s.fetchWord = wordOfBytes (s.load s.pc) (s.load (s.pc + 1))

/-- MODEL'S FORM (notes/assumptions/31.md): two canonical memories that read alike at every address are the same data. -/
def Obligations.CanonicalMemoriesAreEqual : Prop :=
  ∀ (cfg : Config) (m m' : Memory), Memory.wf (resetByte cfg) m = true → Memory.wf (resetByte cfg) m' = true →
    (∀ a, a < memSize → Memory.read (resetByte cfg) m a = Memory.read (resetByte cfg) m' a) → m = m'

/-- R82, R71 (decisions D2, D3): a fetch sees every earlier write, the byte at the lower address being the high one, and the
fetch at 0x0FFF takes its second byte from 0x000. -/
def Obligations.FetchSeesStores : Prop :=
  (∀ (s : State) (hi lo : Byte),
    ((s.store s.pc hi).store (s.pc + 1) lo).fetchWord.toNat = hi.toNat * 256 + lo.toNat) ∧
  (∀ s : State, s.pc = 0x0FFF → s.fetchWord.toNat = (s.load 0x0FFF).toNat * 256 + (s.load 0x0000).toNat)

/-! ## The cycle -/

/-- A STEP RUNS THE DECODED INSTRUCTION. When the environment's next command is `Step(rnd)`, a running machine executes the
instruction that the bytes at `pc` decode to, with that `rnd` at the input port; when no command is spelled out, the next
one is the free value, and if that is a Step, it does the same (notes/assumptions/21.md, 25.md). `exec` adds the advance
itself (notes/assumptions/27.md). -/
def Obligations.StepRunsDecodedInstruction : Prop :=
  ∀ (s : State) (i : Instr), s.run = .running → decode s.fetchWord = .ok i →
    (∀ rnd rest, s.inbox = .step rnd :: rest → step s = exec i ({ s with inbox := rest }.withRnd rnd)) ∧
    (s.inbox = [] → step s = { s with draws := s.draws + 1 }.command (Config.freeCommand s.draws) ∧
      ∀ rnd, { s with draws := s.draws + 1 }.command (.step rnd) = exec i ({ s with draws := s.draws + 1 }.withRnd rnd))

/-- R123: the decode check comes first; a DecodeError raises IllegalInstruction and the advance is not committed. -/
def Obligations.DecodeErrorRaisesIllegalInstruction : Prop :=
  ∀ (s : State) (rnd : Byte), s.run = .running →
    (∀ i, decode s.fetchWord = .ok i → s.command (.step rnd) = exec i (s.withRnd rnd)) ∧
    (∀ e, decode s.fetchWord = .error e → ∃ t, s.command (.step rnd) = .next t ∧
      t.run = .halted .illegalInstruction s.fetchWord s.pc ∧ t.pc = s.pc ∧
      OnlyChanges [] [.run] (s.withRnd rnd) t)

/-- R126 (decisions D6, D7): a Step that meets a key wait or a halt changes nothing. -/
def Obligations.StepHoldsWhenNotRunning : Prop :=
  ∀ s : State, s.run ≠ .running → (∀ rnd, s.command (.step rnd) = .next s) ∧
    (∀ rnd rest, s.inbox = .step rnd :: rest → step s = .next { s with inbox := rest })

/-- An instruction placed at `pc` (notes/assumptions/26.md) is the one the very next step runs, by a Step
whose `rnd` is a free value (notes/assumptions/21.md). -/
def Obligations.PlacedInstructionRunsNext : Prop :=
  ∀ (s : State) (i : Instr), i.wellFormed = true →
    step (s.withFetchWord 16 (encode i).toNat) =
      exec i ({ s.withFetchWord 16 (encode i).toNat with inbox := [] }.withRnd (Config.freeRnd s.draws))

/-- R124: EXECUTE is the rule of the decoded Operation; one whose rule does not write `pc` leaves it at `npc`; `rnd` is read
by RandomMask alone. -/
def Obligations.ExecuteAppliesTheInstructionRule : Prop :=
  (∀ (s : State) (rnd : Byte) (i : Instr), s.run = .running → decode s.fetchWord = .ok i →
    s.command (.step rnd) = exec i (s.withRnd rnd)) ∧
  (∀ (i : Instr) (s t : State), writesPc i = false → executionFault s i = none → exec i s = .next t → t.pc = s.pc + 2) ∧
  (∀ (i : Instr) (s t : State) (rnd : Byte), (∀ x kk, i ≠ .randomMask x kk) → exec i s = .next t →
    exec i (s.withRnd rnd) = .next (t.withRnd rnd))

/-! ## Whole-machine rules -/

/-- No Operation and no command stops the model: every error is a run state (R243). -/
def Obligations.EveryStepAnswersANextState : Prop :=
  (∀ (i : Instr) (s : State), ∃ t, exec i s = .next t) ∧ (∀ (s : State) (c : Command), ∃ t, s.command c = .next t) ∧
  (∀ s : State, ∃ t, step s = .next t)

/-- R33 and the "written by" columns of R44: an instruction changes no register and no piece of state but its own. -/
def Obligations.InstructionsChangeOnlyTheirOwnState : Prop :=
  ∀ (i : Instr) (s t : State), exec i s = .next t → OnlyChanges (regsWritten i) (piecesWritten i) s t

/-- R36: only the calls push, only the return pops, one element each. -/
def Obligations.StackMovesByCallsAndReturnsOnly : Prop :=
  ∀ (i : Instr) (s t : State), exec i s = .next t →
    t.stack = s.stack ∨
    (((∃ nnn, i = .call nnn) ∨ (∃ nnn, i = .callSubroutine nnn)) ∧ t.stack = s.stack ++ [s.pc + 2]) ∨
    (i = .returnFromSubroutine ∧ ∃ v, s.stack = t.stack ++ [v] ∧ t.pc = v)

/-- R38: no instruction reads ST. Two states that differ in ST alone stay so. -/
def Obligations.SoundTimerIsReadByNoInstruction : Prop :=
  ∀ (i : Instr) (s t : State) (v : Byte), exec i s = .next t →
    ∃ u, exec i (s.setST v) = .next u ∧ (∀ r, u.reg r = t.reg r) ∧ OnlyChanges [] [.soundTimer] t u

/-- R241, R243, R125 (decisions D5, D11, D14, D15): on a running machine an Operation halts exactly when the table gives it a
fault, then with that cause, the fetched word and its address, and with nothing else written. -/
def Obligations.FaultTableIsExact : Prop :=
  ∀ (i : Instr) (s : State), s.run = .running → ∃ t, exec i s = .next t ∧
    (∀ c, executionFault s i = some c → HaltedBy c s t) ∧ (executionFault s i = none → isHalted t = false)

/-- R241's code column (decision D16). -/
def Obligations.CauseCodes : Prop :=
  Cause.code .illegalInstruction = 1 ∧ Cause.code .stackUnderflow = 2 ∧ Cause.code .stackOverflow = 3 ∧
  Cause.code .keyIndexOutOfRange = 4 ∧ Cause.code .drawRowOutOfRange = 5 ∧ Cause.code .unrecognizedOperation = 6 ∧
  (∀ (s : State) (c : Cause) (w f : Word), s.run = .halted c w f → s.statusPort = .halted c w f ∧ s.statusCode = c.code)

/-- R246 (decision D6): in Halted every command but Reset leaves the fault record, `pc` and all state that a program sees;
only memory, the timers and the keys may move, by the host's hand. -/
def Obligations.OnlyResetLeavesHalted : Prop :=
  ∀ (s : State) (c : Command), isHalted s = true → c ≠ .reset →
    ∃ t, s.command c = .next t ∧ t.run = s.run ∧
      OnlyChanges [] [.memory, .delayTimer, .soundTimer, .keys] s t

/-- R209, R257 (decision D8): but for Reset, the key wait ends by a new key-down and by nothing else, and then the target
register holds the key's index. -/
def Obligations.OnlyNewKeyDownEndsTheWait : Prop :=
  ∀ (s : State) (target : Nibble) (c : Command), s.run = .awaitingKey target → c ≠ .reset →
    ∃ t, s.command c = .next t ∧
      (t.run ≠ s.run ↔ ∃ k, c = .keyEvent k true ∧ s.key k = false) ∧
      (∀ k, c = .keyEvent k true → s.key k = false →
        t.run = .running ∧ (t.reg target).toNat = k.toNat ∧ OnlyChanges [target] [.run, .keys] s t)

/-- THE INVARIANT, kept by every step from every state that has it: memory canonical, depth within `STACK_DEPTH` (R36), and
a halted machine still shows why it stopped (R243, R241, R244). The inbox is arbitrary and what follows it a free
value, so this is over every order of commands. -/
def Obligations.EveryStepKeepsTheInvariant : Prop :=
  ∀ s t : State, Inv s → step s = .next t → Inv t

/-- The state Reset gives has the invariant, for every choice of the parameters. -/
def Obligations.ResetHasTheInvariant : Prop :=
  (∀ cfg : Config, Inv (State.initial cfg)) ∧ Inv State.reset

/-- A run that meets no fault (R247) answers a state, keeps the invariant, and is not halted at its end. -/
def Obligations.SafeRunsKeepTheInvariant : Prop :=
  ∀ (n : Nat) (s : State), Inv s → SafeRun n s →
    ∃ t, Host.Core.run Sys2Proof.core n s = .next t ∧ Inv t ∧ isHalted t = false

/-! ## Reset -/

/-- R54 (decision D23 for the keys and the run state): the state after reset, for every `FONT`; the model's reset state is
that state in its own parameters. -/
def Obligations.ResetStateHoldsTheResetValues : Prop :=
  (∀ cfg : Config, ResetValues (State.initial cfg) ∧ (State.initial cfg).cfg = cfg) ∧
  ResetValues State.reset ∧ State.reset.inbox = []

/-- R270, R48 (decision D23): the Reset command gives the reset values from every state, Halted and AwaitingKey included; the
parameters and the environment's inputs are no state of the block. -/
def Obligations.ResetCommandFromAnyState : Prop :=
  ∀ s : State, ∃ t, s.command .reset = .next t ∧ ResetValues t ∧ t.cfg = s.cfg ∧ t.inbox = s.inbox ∧
    t.rnd = s.rnd ∧ t.draws = s.draws

/-! ## Control flow -/

/-- R140 (decision D5 for the state after the fault): the return pops the last address into `pc`, or underflows. -/
def Obligations.ReturnPopsTheLastAddress : Prop :=
  decode 0x00EE = .ok .returnFromSubroutine ∧
  (∀ (s : State) (rest : List Word) (v : Word), s.stack = rest ++ [v] →
    ∃ t, exec .returnFromSubroutine s = .next t ∧ t.pc = v ∧ t.stack = rest ∧ OnlyChanges [] [.pc, .stack] s t) ∧
  (∀ s : State, s.stack = [] → ∃ t, exec .returnFromSubroutine s = .next t ∧ HaltedBy .stackUnderflow s t)

/-- R141, R142 (decision D11): both calls push `npc` and go to the zero-extended address, or overflow when the stack holds
`STACK_DEPTH` entries. -/
def Obligations.CallsPushTheNextAddress : Prop :=
  ∀ (s : State) (nnn : Addr12) (i : Instr), i = .call nnn ∨ i = .callSubroutine nnn →
    (s.stack.length < s.cfg.stackDepth →
      ∃ t, exec i s = .next t ∧ t.stack = s.stack ++ [s.pc + 2] ∧ t.pc.toNat = nnn.toNat ∧
        OnlyChanges [] [.pc, .stack] s t) ∧
    (s.stack.length = s.cfg.stackDepth → ∃ t, exec i s = .next t ∧ HaltedBy .stackOverflow s t)

/-- R141, R142, R98: the words of the two calls. -/
def Obligations.CallEncodings : Prop :=
  ∀ nnn : Addr12, decode (0x2#4 ++ nnn) = .ok (.callSubroutine nnn) ∧
    (nnn ≠ 0x0E0 → nnn ≠ 0x0EE → decode (0x0#4 ++ nnn) = .ok (.call nnn))

/-- R142, the source's property: a call and then a return restore `pc` to just after the call and the stack as it was. -/
def Obligations.CallThenReturnComesBack : Prop :=
  ∀ (s : State) (nnn : Addr12) (i : Instr), i = .call nnn ∨ i = .callSubroutine nnn →
    s.stack.length < s.cfg.stackDepth →
    ∃ t u, exec i s = .next t ∧ exec .returnFromSubroutine t = .next u ∧ u.pc = s.pc + 2 ∧ u.stack = s.stack ∧
      OnlyChanges [] [.pc] s u

/-- R143: the jump; a jump to its own address leaves the whole state unchanged, so a Step that runs it changes nothing but
the input port and every later Step repeats it. -/
def Obligations.JumpGoesToTheAddress : Prop :=
  ∀ (s : State) (nnn : Addr12), decode (0x1#4 ++ nnn) = .ok (.jump nnn) ∧
    (∃ t, exec (.jump nnn) s = .next t ∧ t.pc.toNat = nnn.toNat ∧ OnlyChanges [] [.pc] s t) ∧
    (s.pc.toNat = nnn.toNat → exec (.jump nnn) s = .next s ∧
      (s.run = .running → s.fetchWord = 0x1#4 ++ nnn → ∀ rnd, s.command (.step rnd) = .next (s.withRnd rnd)))

/-- R144: the sum with V0 is not reduced; it keeps all its bits. -/
def Obligations.JumpPlusV0GoesToTheSum : Prop :=
  ∀ (s : State) (nnn : Addr12), decode (0xB#4 ++ nnn) = .ok (.jumpPlusV0 nnn) ∧
    ∃ t, exec (.jumpPlusV0 nnn) s = .next t ∧ t.pc.toNat = nnn.toNat + (s.reg 0x0).toNat ∧
      OnlyChanges [] [.pc] s t

/-- R145, R146 with the skip convention of R127. -/
def Obligations.ImmediateSkips : Prop :=
  ∀ (s : State) (x : Nibble) (kk : Byte),
    decode (0x3#4 ++ x ++ kk) = .ok (.skipIfEqualImmediate x kk) ∧
    decode (0x4#4 ++ x ++ kk) = .ok (.skipIfNotEqualImmediate x kk) ∧
    (∃ t, exec (.skipIfEqualImmediate x kk) s = .next t ∧
      t.pc = (if s.reg x = kk then s.pc + 4 else s.pc + 2) ∧ OnlyChanges [] [.pc] s t) ∧
    (∃ t, exec (.skipIfNotEqualImmediate x kk) s = .next t ∧
      t.pc = (if s.reg x = kk then s.pc + 2 else s.pc + 4) ∧ OnlyChanges [] [.pc] s t)

/-- R147, R148 with the skip convention of R127; a nonzero bottom nibble is illegal. -/
def Obligations.RegisterSkips : Prop :=
  ∀ (s : State) (x y : Nibble),
    decode (0x5#4 ++ x ++ y ++ 0x0#4) = .ok (.skipIfRegistersEqual x y) ∧
    decode (0x9#4 ++ x ++ y ++ 0x0#4) = .ok (.skipIfRegistersNotEqual x y) ∧
    (∀ n : Nibble, n ≠ 0 → decode (0x5#4 ++ x ++ y ++ n) = .error .illegalWord ∧
      decode (0x9#4 ++ x ++ y ++ n) = .error .illegalWord) ∧
    (∃ t, exec (.skipIfRegistersEqual x y) s = .next t ∧
      t.pc = (if s.reg x = s.reg y then s.pc + 4 else s.pc + 2) ∧ OnlyChanges [] [.pc] s t) ∧
    (∃ t, exec (.skipIfRegistersNotEqual x y) s = .next t ∧
      t.pc = (if s.reg x = s.reg y then s.pc + 2 else s.pc + 4) ∧ OnlyChanges [] [.pc] s t)

/-! ## Registers and ALU -/

/-- R161, R162, R163: the result, and no other register (VF included) and nothing but `pc` beside it. -/
def Obligations.SetAddAndCopy : Prop :=
  ∀ (s : State) (x y : Nibble) (kk : Byte),
    decode (0x6#4 ++ x ++ kk) = .ok (.setImmediate x kk) ∧ decode (0x7#4 ++ x ++ kk) = .ok (.addImmediate x kk) ∧
    decode (0x8#4 ++ x ++ y ++ 0x0#4) = .ok (.copy x y) ∧
    (∃ t, exec (.setImmediate x kk) s = .next t ∧ t.reg x = kk ∧ t.pc = s.pc + 2 ∧ OnlyChanges [x] [.pc] s t) ∧
    (∃ t, exec (.addImmediate x kk) s = .next t ∧ (t.reg x).toNat = ((s.reg x).toNat + kk.toNat) % 256 ∧
      t.pc = s.pc + 2 ∧ OnlyChanges [x] [.pc] s t) ∧
    (∃ t, exec (.copy x y) s = .next t ∧ t.reg x = s.reg y ∧ t.pc = s.pc + 2 ∧ OnlyChanges [x] [.pc] s t)

/-- R164, R165, R166 (decision D10: VF is not written): the logic operations, bit by bit. -/
def Obligations.LogicOperations : Prop :=
  ∀ (s : State) (x y : Nibble),
    decode (0x8#4 ++ x ++ y ++ 0x1#4) = .ok (.or x y) ∧ decode (0x8#4 ++ x ++ y ++ 0x2#4) = .ok (.and x y) ∧
    decode (0x8#4 ++ x ++ y ++ 0x3#4) = .ok (.xor x y) ∧
    (∃ t, exec (.or x y) s = .next t ∧
      (∀ b, (t.reg x).getLsbD b = ((s.reg x).getLsbD b || (s.reg y).getLsbD b)) ∧
      t.pc = s.pc + 2 ∧ OnlyChanges [x] [.pc] s t) ∧
    (∃ t, exec (.and x y) s = .next t ∧
      (∀ b, (t.reg x).getLsbD b = ((s.reg x).getLsbD b && (s.reg y).getLsbD b)) ∧
      t.pc = s.pc + 2 ∧ OnlyChanges [x] [.pc] s t) ∧
    (∃ t, exec (.xor x y) s = .next t ∧
      (∀ b, (t.reg x).getLsbD b = xor ((s.reg x).getLsbD b) ((s.reg y).getLsbD b)) ∧
      t.pc = s.pc + 2 ∧ OnlyChanges [x] [.pc] s t)

/-- R167, R173, with R160 (decision D9: the flag last, so VF holds it for x = 0xF too). -/
def Obligations.AddWithCarrySumAndCarry : Prop :=
  ∀ (s : State) (x y : Nibble), decode (0x8#4 ++ x ++ y ++ 0x4#4) = .ok (.addWithCarry x y) ∧
    ∃ t, exec (.addWithCarry x y) s = .next t ∧
      t.reg 0xF = (if (s.reg x).toNat + (s.reg y).toNat > 255 then 0x01 else 0x00) ∧
      (x ≠ 0xF → (t.reg x).toNat = ((s.reg x).toNat + (s.reg y).toNat) % 256) ∧
      t.pc = s.pc + 2 ∧ OnlyChanges [x, 0xF] [.pc] s t

/-- R168, R170, R173, with R160 (decision D9): both subtractions; VF is 1 when there is no borrow. -/
def Obligations.SubtractionsAndNoBorrow : Prop :=
  ∀ (s : State) (x y : Nibble),
    decode (0x8#4 ++ x ++ y ++ 0x5#4) = .ok (.subtractWithBorrow x y) ∧
    decode (0x8#4 ++ x ++ y ++ 0x7#4) = .ok (.reverseSubtract x y) ∧
    (∃ t, exec (.subtractWithBorrow x y) s = .next t ∧
      t.reg 0xF = (if (s.reg x).toNat ≥ (s.reg y).toNat then 0x01 else 0x00) ∧
      (x ≠ 0xF → (t.reg x).toNat = ((s.reg x).toNat + 256 - (s.reg y).toNat) % 256) ∧
      t.pc = s.pc + 2 ∧ OnlyChanges [x, 0xF] [.pc] s t) ∧
    (∃ t, exec (.reverseSubtract x y) s = .next t ∧
      t.reg 0xF = (if (s.reg y).toNat ≥ (s.reg x).toNat then 0x01 else 0x00) ∧
      (x ≠ 0xF → (t.reg x).toNat = ((s.reg y).toNat + 256 - (s.reg x).toNat) % 256) ∧
      t.pc = s.pc + 2 ∧ OnlyChanges [x, 0xF] [.pc] s t)

/-- R169, R171, R174, with R160 (decision D9) and conflict C4: both shifts read V[y]; only the left shift writes it back. -/
def Obligations.ShiftsByOneBit : Prop :=
  ∀ (s : State) (x y : Nibble),
    decode (0x8#4 ++ x ++ y ++ 0x6#4) = .ok (.shiftRight x y) ∧ decode (0x8#4 ++ x ++ y ++ 0xE#4) = .ok (.shiftLeft x y) ∧
    (∃ t, exec (.shiftRight x y) s = .next t ∧
      (t.reg 0xF).toNat = (s.reg y).toNat % 2 ∧ (x ≠ 0xF → (t.reg x).toNat = (s.reg y).toNat / 2) ∧
      t.pc = s.pc + 2 ∧ OnlyChanges [x, 0xF] [.pc] s t) ∧
    (∃ t, exec (.shiftLeft x y) s = .next t ∧
      (t.reg 0xF).toNat = (s.reg y).toNat / 128 ∧ (x ≠ 0xF → (t.reg x).toNat = (s.reg y).toNat * 2 % 256) ∧
      (y ≠ 0xF → (t.reg y).toNat = (s.reg y).toNat * 2 % 256) ∧
      t.pc = s.pc + 2 ∧ OnlyChanges [x, y, 0xF] [.pc] s t)

/-- R172 (decision D22): for every byte `rnd` of the Step, its AND with the mask. -/
def Obligations.RandomMaskAndsTheDraw : Prop :=
  ∀ (s : State) (rnd : Byte) (x : Nibble) (kk : Byte), decode (0xC#4 ++ x ++ kk) = .ok (.randomMask x kk) ∧
    ∃ t, exec (.randomMask x kk) (s.withRnd rnd) = .next t ∧
      (∀ b, (t.reg x).getLsbD b = (rnd.getLsbD b && kk.getLsbD b)) ∧
      t.pc = s.pc + 2 ∧ OnlyChanges [x] [.pc] (s.withRnd rnd) t

/-! ## Framebuffer -/

/-- R190. -/
def Obligations.ClearDisplayZeroesEveryCell : Prop :=
  decode 0x00E0 = .ok .clearDisplay ∧
  ∀ s : State, ∃ t, exec .clearDisplay s = .next t ∧ (∀ px py, px < 64 → py < 32 → t.cell px py = false) ∧
    t.pc = s.pc + 2 ∧ OnlyChanges [] [.pc, .framebuffer] s t

/-- R193, R191, R192 (decisions D13, D14, D9): every cell is XORed with the sprite's bit there, columns wrapping at 64, and VF
is 1 exactly when some cell went from 1 to 0; a sprite that reaches below row 31 faults and draws nothing. -/
def Obligations.DrawSpriteXorsTheSprite : Prop :=
  ∀ (s : State) (x y n : Nibble),
    decode (0xD#4 ++ x ++ y ++ n) = .ok (.drawSprite x y n) ∧
    (¬ (0 < n.toNat ∧ 31 < (s.reg y).toNat + n.toNat - 1) →
      ∃ t, exec (.drawSprite x y n) s = .next t ∧
        (∀ px py, px < 64 → py < 32 → t.cell px py = xor (s.cell px py)
          (spriteBit (fun r => s.load (s.indexed r)) (s.reg x).toNat (s.reg y).toNat n.toNat px py)) ∧
        (t.reg 0xF = 0x00 ∨ t.reg 0xF = 0x01) ∧
        (t.reg 0xF = 0x01 ↔ ∃ px py, px < 64 ∧ py < 32 ∧ s.cell px py = true ∧ t.cell px py = false) ∧
        t.pc = s.pc + 2 ∧ OnlyChanges [0xF] [.pc, .framebuffer] s t) ∧
    (0 < n.toNat ∧ 31 < (s.reg y).toNat + n.toNat - 1 →
      ∃ t, exec (.drawSprite x y n) s = .next t ∧ HaltedBy .drawRowOutOfRange s t)

/-- Drawing a sprite again at the same place undoes it and reports a collision exactly when the sprite left a cell set that
was clear (R193; the vectors G-2 and G-3). The place is the same when the first draw's flag did not fall on a coordinate
register. -/
def Obligations.DrawingTwiceUndoes : Prop :=
  ∀ (s t : State) (x y n : Nibble), executionFault s (.drawSprite x y n) = none →
    exec (.drawSprite x y n) s = .next t → t.reg x = s.reg x → t.reg y = s.reg y →
    ∃ u, exec (.drawSprite x y n) t = .next u ∧ (∀ px py, px < 64 → py < 32 → u.cell px py = s.cell px py) ∧
      (u.reg 0xF = 0x01 ↔ ∃ px py, px < 64 ∧ py < 32 ∧ s.cell px py = false ∧ t.cell px py = true)

/-! ## Keys and timers -/

/-- R200, R201 (decision D15): the key skips test the key whose index is the value of V[x], or fault on a value above 0x0F. -/
def Obligations.KeySkips : Prop :=
  ∀ (s : State) (x : Nibble),
    decode (0xE#4 ++ x ++ 0x9E#8) = .ok (.skipIfKeyDown x) ∧ decode (0xE#4 ++ x ++ 0xA1#8) = .ok (.skipIfKeyUp x) ∧
    (∀ k : Nibble, (s.reg x).toNat = k.toNat →
      (∃ t, exec (.skipIfKeyDown x) s = .next t ∧ t.pc = (if s.key k = true then s.pc + 4 else s.pc + 2) ∧
        OnlyChanges [] [.pc] s t) ∧
      (∃ t, exec (.skipIfKeyUp x) s = .next t ∧ t.pc = (if s.key k = true then s.pc + 2 else s.pc + 4) ∧
        OnlyChanges [] [.pc] s t)) ∧
    (0x0F < (s.reg x).toNat → ∀ i, i = .skipIfKeyDown x ∨ i = .skipIfKeyUp x →
      ∃ t, exec i s = .next t ∧ HaltedBy .keyIndexOutOfRange s t)

/-- R202, R203, and R204 with the sound port of R53. The codes 0x07, 0x15 and 0x18 are R97's pairing (decision D21,
notes/assumptions/20.md, PRESUMED). -/
def Obligations.TimerInstructions : Prop :=
  ∀ (s : State) (x : Nibble),
    decode (0xF#4 ++ x ++ 0x07#8) = .ok (.readDelayTimer x) ∧ decode (0xF#4 ++ x ++ 0x15#8) = .ok (.setDelayTimer x) ∧
    decode (0xF#4 ++ x ++ 0x18#8) = .ok (.setSoundTimer x) ∧
    (∃ t, exec (.readDelayTimer x) s = .next t ∧ t.reg x = s.DT ∧ t.pc = s.pc + 2 ∧ OnlyChanges [x] [.pc] s t) ∧
    (∃ t, exec (.setDelayTimer x) s = .next t ∧ t.DT = s.reg x ∧ t.pc = s.pc + 2 ∧
      OnlyChanges [] [.pc, .delayTimer] s t) ∧
    (∃ t, exec (.setSoundTimer x) s = .next t ∧ t.ST = s.reg x ∧ t.soundPort = s.reg x ∧ t.pc = s.pc + 2 ∧
      OnlyChanges [] [.pc, .soundTimer] s t)

/-- R207, R126, R205, R209 (decisions D7, D8): the key wait begins, V[x] is not written, a Step changes nothing while it lasts,
a Tick still counts down, and a key already held does not end it. The code 0x0A is R97's pairing (decision D21,
notes/assumptions/20.md, PRESUMED). -/
def Obligations.BlockOnKeyPressWaits : Prop :=
  ∀ (s : State) (x : Nibble), decode (0xF#4 ++ x ++ 0x0A#8) = .ok (.blockOnKeyPress x) ∧
    ∃ t, exec (.blockOnKeyPress x) s = .next t ∧ t.run = .awaitingKey x ∧ t.waitingForKeypress = some x ∧
      t.pc = s.pc + 2 ∧ OnlyChanges [] [.pc, .run] s t ∧
      (∀ rnd, t.command (.step rnd) = .next t) ∧ (t.tick.DT.toNat = s.DT.toNat - 1 ∧ t.tick.run = t.run) ∧
      (∀ k, s.key k = true → (t.keyEvent k true).run = t.run)

/-- R205 (decisions D25, D6): one Tick decrements both timers, floored at 0, in every run state, and changes nothing else. -/
def Obligations.TickCountsBothTimersDown : Prop :=
  ∀ s : State, ∃ t, s.command .tick = .next t ∧ t.DT.toNat = s.DT.toNat - 1 ∧ t.ST.toNat = s.ST.toNat - 1 ∧
    OnlyChanges [] [.delayTimer, .soundTimer] s t

/-- R208, R209 (decisions D6, D8): a KeyEvent sets that key's bit in every run state; it touches no register and no run state
unless it is a new key-down during a key wait, and never `pc`. -/
def Obligations.KeyEventSetsTheKey : Prop :=
  ∀ (s : State) (k : Nibble) (down : Bool), ∃ t, s.command (.keyEvent k down) = .next t ∧
    (∀ j, t.key j = if j = k then down else s.key j) ∧
    (∀ target, s.run = .awaitingKey target → down = true → s.key k = false →
      t.run = .running ∧ (t.reg target).toNat = k.toNat ∧ OnlyChanges [target] [.run, .keys] s t) ∧
    ((∀ target, s.run ≠ .awaitingKey target) ∨ down = false ∨ s.key k = true → OnlyChanges [] [.keys] s t)

/-- R52 (decision D24): HostWrite is one byte write, at any time and any address, and nothing else. -/
def Obligations.HostWriteWritesOneByte : Prop :=
  ∀ (s : State) (addr : Word) (b : Byte), ∃ t, s.command (.hostWrite addr b) = .next t ∧ t.load addr = b ∧
    (∀ a : Word, a.toNat % 4096 ≠ addr.toNat % 4096 → t.load a = s.load a) ∧ OnlyChanges [] [.memory] s t

/-! ## Index register and memory transfer -/

/-- R220. -/
def Obligations.SetIndexLoadsTheAddress : Prop :=
  ∀ (s : State) (nnn : Addr12), decode (0xA#4 ++ nnn) = .ok (.setIndex nnn) ∧
    ∃ t, exec (.setIndex nnn) s = .next t ∧ t.I.toNat = nnn.toNat ∧ t.pc = s.pc + 2 ∧
      OnlyChanges [] [.pc, .index] s t

/-- R221 (decision D12: 16 bits, wrapping at 65536, no flag) and R222 (no reduction of V[x]: the spec's own inference,
notes/assumptions/33.md, DEDUCED). The codes 0x1E and 0x29 are R97's pairing (decision D21, notes/assumptions/20.md,
PRESUMED). -/
def Obligations.IndexArithmetic : Prop :=
  ∀ (s : State) (x : Nibble),
    decode (0xF#4 ++ x ++ 0x1E#8) = .ok (.addToIndexRegister x) ∧ decode (0xF#4 ++ x ++ 0x29#8) = .ok (.useSprite x) ∧
    (∃ t, exec (.addToIndexRegister x) s = .next t ∧ t.I.toNat = (s.I.toNat + (s.reg x).toNat) % 65536 ∧
      t.pc = s.pc + 2 ∧ OnlyChanges [] [.pc, .index] s t) ∧
    (∃ t, exec (.useSprite x) s = .next t ∧ t.I.toNat = 5 * (s.reg x).toNat ∧
      t.pc = s.pc + 2 ∧ OnlyChanges [] [.pc, .index] s t)

/-- R223: the three digits at `I`, `I + 1`, `I + 2` (wrapping past 0xFFF, since every address is reduced), every other byte as
before. The stores go to `s.indexed 0`, `1`, `2`, the addresses the meaning stores to. -/
def Obligations.BcdStoresThreeDigits : Prop :=
  ∀ (s : State) (x : Nibble), decode (0xF#4 ++ x ++ 0x33#8) = .ok (.readRegisterAsBCD x) ∧
    ∃ t, exec (.readRegisterAsBCD x) s = .next t ∧
      (t.load (s.indexed 0)).toNat = (s.reg x).toNat / 100 ∧
      (t.load (s.indexed 1)).toNat = (s.reg x).toNat / 10 % 10 ∧
      (t.load (s.indexed 2)).toNat = (s.reg x).toNat % 10 ∧
      (∀ i, i < 3 → reduce (s.indexed i) = (s.I.toNat + i) % 4096) ∧
      MemorySameOutside 3 s t ∧ t.pc = s.pc + 2 ∧ OnlyChanges [] [.pc, .memory] s t

/-- R224 (decision D19: I unchanged): V[0]..V[x] at `I + 0 .. I + x`, every other byte as before. The code 0x55 is R97's
pairing (decision D21, notes/assumptions/20.md, PRESUMED). -/
def Obligations.DumpStoresTheRegisters : Prop :=
  ∀ (s : State) (x : Nibble), decode (0xF#4 ++ x ++ 0x55#8) = .ok (.dumpRegisters x) ∧
    ∃ t, exec (.dumpRegisters x) s = .next t ∧
      (∀ r : Nibble, r.toNat ≤ x.toNat → t.load (s.indexed r.toNat) = s.reg r) ∧
      (∀ i, i < 16 → reduce (s.indexed i) = (s.I.toNat + i) % 4096) ∧
      MemorySameOutside (x.toNat + 1) s t ∧ t.pc = s.pc + 2 ∧ OnlyChanges [] [.pc, .memory] s t

/-- R225 (decision D19: I unchanged): V[0]..V[x] from `I + 0 .. I + x`, the registers above x untouched. The code 0x65 is
R97's pairing (decision D21, notes/assumptions/20.md, PRESUMED). -/
def Obligations.FillLoadsTheRegisters : Prop :=
  ∀ (s : State) (x : Nibble), decode (0xF#4 ++ x ++ 0x65#8) = .ok (.fillRegisters x) ∧
    ∃ t, exec (.fillRegisters x) s = .next t ∧
      (∀ r : Nibble, r.toNat ≤ x.toNat → t.reg r = s.load (s.indexed r.toNat)) ∧
      (∀ r : Nibble, x.toNat < r.toNat → t.reg r = s.reg r) ∧
      t.pc = s.pc + 2 ∧ OnlyChanges ((List.range (x.toNat + 1)).map (BitVec.ofNat 4)) [.pc] s t

/-- R226, the source's law (decision D19): what DumpRegisters stored, FillRegisters brings back into any register bank, with
the memory and the index register as the dump left them; registers above x are untouched by either. -/
def Obligations.DumpThenFillRoundTrips : Prop :=
  ∀ (s t u : State) (x : Nibble), exec (.dumpRegisters x) s = .next t →
    u.I = t.I → (∀ a, u.load a = t.load a) →
    ∃ v, exec (.fillRegisters x) u = .next v ∧
      (∀ r : Nibble, r.toNat ≤ x.toNat → v.reg r = s.reg r) ∧
      (∀ r : Nibble, x.toNat < r.toNat → v.reg r = u.reg r ∧ t.reg r = s.reg r) ∧ (∀ a, v.load a = u.load a)

/-! ## The order of commands -/

/-- R47 (decision D1; the form is notes/assumptions/25.md): the commands run one after the other in the environment's order,
whatever it is. Every finite list, at the head of the inbox, runs in its order and leaves what stood behind it; and when
nothing is spelled out, the run of any length is that of the free commands, of which nothing is known. -/
def Obligations.EveryOrderOfCommandsIsARun : Prop :=
  (∀ (s : State) (cs more : List Command), ∃ t, runCommands cs s = .next t ∧
    Host.Core.run Sys2Proof.core cs.length { s with inbox := cs ++ more } = .next { t with inbox := more }) ∧
  (∀ (s : State) (n : Nat), s.inbox = [] →
    ∃ t, runCommands ((List.range n).map (fun i => Config.freeCommand (s.draws + i))) s = .next t ∧
      Host.Core.run Sys2Proof.core n s = .next { t with draws := s.draws + n })
end

