-- ==== Sys2Proof/Laws/Decode.lean ====
section
/-! SUPPORT. The formats of an instruction word: the fields of a word put together from its fields, and a word put together
from its own fields. -/

namespace Sys2Proof

/-! A word of each format as a number. -/

theorem toNat_formatNNN (op : Nibble) (nnn : Addr12) : (op ++ nnn).toNat = op.toNat * 4096 + nnn.toNat := by
  rw [BitVec.toNat_append, ← Nat.shiftLeft_add_eq_or_of_lt (by have := nnn.isLt; omega), Nat.shiftLeft_eq]

theorem toNat_formatXKK (op x : Nibble) (kk : Byte) :
    (op ++ x ++ kk).toNat = op.toNat * 4096 + x.toNat * 256 + kk.toNat := by
  rw [BitVec.toNat_append, ← Nat.shiftLeft_add_eq_or_of_lt (by have := kk.isLt; omega), Nat.shiftLeft_eq,
    BitVec.toNat_append, ← Nat.shiftLeft_add_eq_or_of_lt (by have := x.isLt; omega), Nat.shiftLeft_eq]
  omega

theorem toNat_formatXYN (op x y n : Nibble) :
    (op ++ x ++ y ++ n).toNat = op.toNat * 4096 + x.toNat * 256 + y.toNat * 16 + n.toNat := by
  rw [BitVec.toNat_append, ← Nat.shiftLeft_add_eq_or_of_lt (by have := n.isLt; omega), Nat.shiftLeft_eq,
    BitVec.toNat_append, ← Nat.shiftLeft_add_eq_or_of_lt (by have := y.isLt; omega), Nat.shiftLeft_eq,
    BitVec.toNat_append, ← Nat.shiftLeft_add_eq_or_of_lt (by have := x.isLt; omega), Nat.shiftLeft_eq]
  omega

/-! Each field as a number. -/

theorem Word.toNat_op (w : Word) : w.op.toNat = w.toNat / 4096 := by
  have := w.isLt
  simp only [Word.op, BitVec.extractLsb'_toNat, Nat.shiftRight_eq_div_pow]; omega

theorem Word.toNat_x (w : Word) : w.x.toNat = w.toNat / 256 % 16 := by
  simp only [Word.x, BitVec.extractLsb'_toNat, Nat.shiftRight_eq_div_pow]

theorem Word.toNat_y (w : Word) : w.y.toNat = w.toNat / 16 % 16 := by
  simp only [Word.y, BitVec.extractLsb'_toNat, Nat.shiftRight_eq_div_pow]

theorem Word.toNat_n (w : Word) : w.n.toNat = w.toNat % 16 := by
  simp only [Word.n, BitVec.extractLsb'_toNat, Nat.shiftRight_eq_div_pow]; omega

theorem Word.toNat_kk (w : Word) : w.kk.toNat = w.toNat % 256 := by
  simp only [Word.kk, BitVec.extractLsb'_toNat, Nat.shiftRight_eq_div_pow]; omega

theorem Word.toNat_nnn (w : Word) : w.nnn.toNat = w.toNat % 4096 := by
  simp only [Word.nnn, BitVec.extractLsb'_toNat, Nat.shiftRight_eq_div_pow]; omega

/-! The fields of a word of each format. -/

@[simp] theorem Word.op_formatNNN (op : Nibble) (nnn : Addr12) : Word.op (op ++ nnn) = op := by
  have h1 := op.isLt; have h2 := nnn.isLt
  exact BitVec.eq_of_toNat_eq (by rw [Word.toNat_op, toNat_formatNNN]; omega)

@[simp] theorem Word.nnn_formatNNN (op : Nibble) (nnn : Addr12) : Word.nnn (op ++ nnn) = nnn := by
  have h2 := nnn.isLt
  exact BitVec.eq_of_toNat_eq (by rw [Word.toNat_nnn, toNat_formatNNN]; omega)

@[simp] theorem Word.op_formatXKK (op x : Nibble) (kk : Byte) : Word.op (op ++ x ++ kk) = op := by
  have h1 := op.isLt; have h2 := x.isLt; have h3 := kk.isLt
  exact BitVec.eq_of_toNat_eq (by rw [Word.toNat_op, toNat_formatXKK]; omega)

@[simp] theorem Word.x_formatXKK (op x : Nibble) (kk : Byte) : Word.x (op ++ x ++ kk) = x := by
  have h2 := x.isLt; have h3 := kk.isLt
  exact BitVec.eq_of_toNat_eq (by rw [Word.toNat_x, toNat_formatXKK]; omega)

@[simp] theorem Word.kk_formatXKK (op x : Nibble) (kk : Byte) : Word.kk (op ++ x ++ kk) = kk := by
  have h3 := kk.isLt
  exact BitVec.eq_of_toNat_eq (by rw [Word.toNat_kk, toNat_formatXKK]; omega)

@[simp] theorem Word.op_formatXYN (op x y n : Nibble) : Word.op (op ++ x ++ y ++ n) = op := by
  have h1 := op.isLt; have h2 := x.isLt; have h3 := y.isLt; have h4 := n.isLt
  exact BitVec.eq_of_toNat_eq (by rw [Word.toNat_op, toNat_formatXYN]; omega)

@[simp] theorem Word.x_formatXYN (op x y n : Nibble) : Word.x (op ++ x ++ y ++ n) = x := by
  have h2 := x.isLt; have h3 := y.isLt; have h4 := n.isLt
  exact BitVec.eq_of_toNat_eq (by rw [Word.toNat_x, toNat_formatXYN]; omega)

@[simp] theorem Word.y_formatXYN (op x y n : Nibble) : Word.y (op ++ x ++ y ++ n) = y := by
  have h3 := y.isLt; have h4 := n.isLt
  exact BitVec.eq_of_toNat_eq (by rw [Word.toNat_y, toNat_formatXYN]; omega)

@[simp] theorem Word.n_formatXYN (op x y n : Nibble) : Word.n (op ++ x ++ y ++ n) = n := by
  have h4 := n.isLt
  exact BitVec.eq_of_toNat_eq (by rw [Word.toNat_n, toNat_formatXYN]; omega)

/-! A word is its own fields put together. -/

theorem Word.eq_formatNNN (w : Word) : w.op ++ w.nnn = w :=
  BitVec.eq_of_toNat_eq (by rw [toNat_formatNNN, Word.toNat_op, Word.toNat_nnn]; omega)

theorem Word.eq_formatXKK (w : Word) : w.op ++ w.x ++ w.kk = w :=
  BitVec.eq_of_toNat_eq (by rw [toNat_formatXKK, Word.toNat_op, Word.toNat_x, Word.toNat_kk]; omega)

theorem Word.eq_formatXYN (w : Word) : w.op ++ w.x ++ w.y ++ w.n = w :=
  BitVec.eq_of_toNat_eq (by
    rw [toNat_formatXYN, Word.toNat_op, Word.toNat_x, Word.toNat_y, Word.toNat_n]; omega)

/-! The decoder, class by class. -/

theorem Nibble.cases (o : Nibble) :
    o = 0x0#4 ∨ o = 0x1#4 ∨ o = 0x2#4 ∨ o = 0x3#4 ∨ o = 0x4#4 ∨ o = 0x5#4 ∨ o = 0x6#4 ∨ o = 0x7#4 ∨
    o = 0x8#4 ∨ o = 0x9#4 ∨ o = 0xA#4 ∨ o = 0xB#4 ∨ o = 0xC#4 ∨ o = 0xD#4 ∨ o = 0xE#4 ∨ o = 0xF#4 := by
  revert o; decide

theorem decode_op_0 (w : Word) (h : w.op = 0x0#4) :
    decode w = .ok (decodeClass0 w.nnn) := by
  simp [decode, h]
theorem decode_op_1 (w : Word) (h : w.op = 0x1#4) :
    decode w = .ok (.jump w.nnn) := by
  simp [decode, h]
theorem decode_op_2 (w : Word) (h : w.op = 0x2#4) :
    decode w = .ok (.callSubroutine w.nnn) := by
  simp [decode, h]
theorem decode_op_3 (w : Word) (h : w.op = 0x3#4) :
    decode w = .ok (.skipIfEqualImmediate w.x w.kk) := by
  simp [decode, h]
theorem decode_op_4 (w : Word) (h : w.op = 0x4#4) :
    decode w = .ok (.skipIfNotEqualImmediate w.x w.kk) := by
  simp [decode, h]
theorem decode_op_5 (w : Word) (h : w.op = 0x5#4) :
    decode w = if w.n = 0#4 then .ok (.skipIfRegistersEqual w.x w.y) else .error .illegalWord := by
  simp [decode, h]
theorem decode_op_6 (w : Word) (h : w.op = 0x6#4) :
    decode w = .ok (.setImmediate w.x w.kk) := by
  simp [decode, h]
theorem decode_op_7 (w : Word) (h : w.op = 0x7#4) :
    decode w = .ok (.addImmediate w.x w.kk) := by
  simp [decode, h]
theorem decode_op_8 (w : Word) (h : w.op = 0x8#4) :
    decode w = decodeClass8 w.x w.y w.n := by
  simp [decode, h]
theorem decode_op_9 (w : Word) (h : w.op = 0x9#4) :
    decode w = if w.n = 0#4 then .ok (.skipIfRegistersNotEqual w.x w.y) else .error .illegalWord := by
  simp [decode, h]
theorem decode_op_A (w : Word) (h : w.op = 0xA#4) :
    decode w = .ok (.setIndex w.nnn) := by
  simp [decode, h]
theorem decode_op_B (w : Word) (h : w.op = 0xB#4) :
    decode w = .ok (.jumpPlusV0 w.nnn) := by
  simp [decode, h]
theorem decode_op_C (w : Word) (h : w.op = 0xC#4) :
    decode w = .ok (.randomMask w.x w.kk) := by
  simp [decode, h]
theorem decode_op_D (w : Word) (h : w.op = 0xD#4) :
    decode w = .ok (.drawSprite w.x w.y w.n) := by
  simp [decode, h]
theorem decode_op_E (w : Word) (h : w.op = 0xE#4) :
    decode w = decodeClassE w.x w.kk := by
  simp [decode, h]
theorem decode_op_F (w : Word) (h : w.op = 0xF#4) :
    decode w = decodeClassF w.x w.kk := by
  simp [decode, h]

/-! Bytes. -/

theorem wordOfBytes_toNat (hi lo : Byte) : (wordOfBytes hi lo).toNat = hi.toNat * 256 + lo.toNat := by
  rw [wordOfBytes, BitVec.toNat_append, ← Nat.shiftLeft_add_eq_or_of_lt (by have := lo.isLt; omega),
    Nat.shiftLeft_eq]

/-- A word is its two bytes put together. -/
@[simp] theorem wordOfBytes_hi_lo (w : Word) : wordOfBytes w.hiByte w.loByte = w := by
  have := w.isLt
  apply BitVec.eq_of_toNat_eq
  rw [wordOfBytes_toNat]
  simp only [Word.hiByte, Word.loByte, BitVec.extractLsb'_toNat, Nat.shiftRight_eq_div_pow]
  omega

end Sys2Proof
end

