-- ==== Sys2Proof/Laws/State.lean ====
section
/-! SUPPORT. One lemma per field per update, so that no proof unfolds a record update; then the register, key and
framebuffer laws: what is read after a write. -/

namespace Sys2Proof.Machine

@[simp] theorem State.npc_eq (s : State) : s.npc = s.pc + 2 := rfl

/-! `setReg` -/

@[simp] theorem State.setReg_mem (s : State) (i : Nibble) (v : Byte) : (s.setReg i v).mem = s.mem := rfl
@[simp] theorem State.setReg_V (s : State) (i : Nibble) (v : Byte) : (s.setReg i v).V = s.V.set i.toNat v i.isLt := rfl
@[simp] theorem State.setReg_I (s : State) (i : Nibble) (v : Byte) : (s.setReg i v).I = s.I := rfl
@[simp] theorem State.setReg_pc (s : State) (i : Nibble) (v : Byte) : (s.setReg i v).pc = s.pc := rfl
@[simp] theorem State.setReg_stack (s : State) (i : Nibble) (v : Byte) : (s.setReg i v).stack = s.stack := rfl
@[simp] theorem State.setReg_DT (s : State) (i : Nibble) (v : Byte) : (s.setReg i v).DT = s.DT := rfl
@[simp] theorem State.setReg_ST (s : State) (i : Nibble) (v : Byte) : (s.setReg i v).ST = s.ST := rfl
@[simp] theorem State.setReg_gfx (s : State) (i : Nibble) (v : Byte) : (s.setReg i v).gfx = s.gfx := rfl
@[simp] theorem State.setReg_keys (s : State) (i : Nibble) (v : Byte) : (s.setReg i v).keys = s.keys := rfl
@[simp] theorem State.setReg_run (s : State) (i : Nibble) (v : Byte) : (s.setReg i v).run = s.run := rfl
@[simp] theorem State.setReg_cfg (s : State) (i : Nibble) (v : Byte) : (s.setReg i v).cfg = s.cfg := rfl
@[simp] theorem State.setReg_rnd (s : State) (i : Nibble) (v : Byte) : (s.setReg i v).rnd = s.rnd := rfl
@[simp] theorem State.setReg_draws (s : State) (i : Nibble) (v : Byte) : (s.setReg i v).draws = s.draws := rfl
@[simp] theorem State.setReg_inbox (s : State) (i : Nibble) (v : Byte) : (s.setReg i v).inbox = s.inbox := rfl
@[simp] theorem State.setReg_load (s : State) (i : Nibble) (v : Byte) (a' : Word) : (s.setReg i v).load a' = s.load a' := rfl
@[simp] theorem State.setReg_cell (s : State) (i : Nibble) (v : Byte) (px py : Nat) : (s.setReg i v).cell px py = s.cell px py := rfl
@[simp] theorem State.setReg_key (s : State) (i : Nibble) (v : Byte) (k' : Nibble) : (s.setReg i v).key k' = s.key k' := rfl
@[simp] theorem State.setReg_fetchWord (s : State) (i : Nibble) (v : Byte) : (s.setReg i v).fetchWord = s.fetchWord := rfl
@[simp] theorem State.setReg_indexed (s : State) (i : Nibble) (v : Byte) (n : Nat) : (s.setReg i v).indexed n = s.indexed n := rfl

/-! `setResultFlag` -/

@[simp] theorem State.setResultFlag_mem (s : State) (x : Nibble) (r f : Byte) : (s.setResultFlag x r f).mem = s.mem := rfl
@[simp] theorem State.setResultFlag_I (s : State) (x : Nibble) (r f : Byte) : (s.setResultFlag x r f).I = s.I := rfl
@[simp] theorem State.setResultFlag_pc (s : State) (x : Nibble) (r f : Byte) : (s.setResultFlag x r f).pc = s.pc := rfl
@[simp] theorem State.setResultFlag_stack (s : State) (x : Nibble) (r f : Byte) : (s.setResultFlag x r f).stack = s.stack := rfl
@[simp] theorem State.setResultFlag_DT (s : State) (x : Nibble) (r f : Byte) : (s.setResultFlag x r f).DT = s.DT := rfl
@[simp] theorem State.setResultFlag_ST (s : State) (x : Nibble) (r f : Byte) : (s.setResultFlag x r f).ST = s.ST := rfl
@[simp] theorem State.setResultFlag_gfx (s : State) (x : Nibble) (r f : Byte) : (s.setResultFlag x r f).gfx = s.gfx := rfl
@[simp] theorem State.setResultFlag_keys (s : State) (x : Nibble) (r f : Byte) : (s.setResultFlag x r f).keys = s.keys := rfl
@[simp] theorem State.setResultFlag_run (s : State) (x : Nibble) (r f : Byte) : (s.setResultFlag x r f).run = s.run := rfl
@[simp] theorem State.setResultFlag_cfg (s : State) (x : Nibble) (r f : Byte) : (s.setResultFlag x r f).cfg = s.cfg := rfl
@[simp] theorem State.setResultFlag_rnd (s : State) (x : Nibble) (r f : Byte) : (s.setResultFlag x r f).rnd = s.rnd := rfl
@[simp] theorem State.setResultFlag_draws (s : State) (x : Nibble) (r f : Byte) : (s.setResultFlag x r f).draws = s.draws := rfl
@[simp] theorem State.setResultFlag_inbox (s : State) (x : Nibble) (r f : Byte) : (s.setResultFlag x r f).inbox = s.inbox := rfl
@[simp] theorem State.setResultFlag_load (s : State) (x : Nibble) (r f : Byte) (a' : Word) : (s.setResultFlag x r f).load a' = s.load a' := rfl
@[simp] theorem State.setResultFlag_cell (s : State) (x : Nibble) (r f : Byte) (px py : Nat) : (s.setResultFlag x r f).cell px py = s.cell px py := rfl
@[simp] theorem State.setResultFlag_key (s : State) (x : Nibble) (r f : Byte) (k' : Nibble) : (s.setResultFlag x r f).key k' = s.key k' := rfl
@[simp] theorem State.setResultFlag_fetchWord (s : State) (x : Nibble) (r f : Byte) : (s.setResultFlag x r f).fetchWord = s.fetchWord := rfl
@[simp] theorem State.setResultFlag_indexed (s : State) (x : Nibble) (r f : Byte) (n : Nat) : (s.setResultFlag x r f).indexed n = s.indexed n := rfl

/-! `store` -/

@[simp] theorem State.store_mem (s : State) (a : Word) (v : Byte) : (s.store a v).mem = Memory.write (resetByte s.cfg) s.mem (reduce a) v := rfl
@[simp] theorem State.store_V (s : State) (a : Word) (v : Byte) : (s.store a v).V = s.V := rfl
@[simp] theorem State.store_I (s : State) (a : Word) (v : Byte) : (s.store a v).I = s.I := rfl
@[simp] theorem State.store_pc (s : State) (a : Word) (v : Byte) : (s.store a v).pc = s.pc := rfl
@[simp] theorem State.store_stack (s : State) (a : Word) (v : Byte) : (s.store a v).stack = s.stack := rfl
@[simp] theorem State.store_DT (s : State) (a : Word) (v : Byte) : (s.store a v).DT = s.DT := rfl
@[simp] theorem State.store_ST (s : State) (a : Word) (v : Byte) : (s.store a v).ST = s.ST := rfl
@[simp] theorem State.store_gfx (s : State) (a : Word) (v : Byte) : (s.store a v).gfx = s.gfx := rfl
@[simp] theorem State.store_keys (s : State) (a : Word) (v : Byte) : (s.store a v).keys = s.keys := rfl
@[simp] theorem State.store_run (s : State) (a : Word) (v : Byte) : (s.store a v).run = s.run := rfl
@[simp] theorem State.store_cfg (s : State) (a : Word) (v : Byte) : (s.store a v).cfg = s.cfg := rfl
@[simp] theorem State.store_rnd (s : State) (a : Word) (v : Byte) : (s.store a v).rnd = s.rnd := rfl
@[simp] theorem State.store_draws (s : State) (a : Word) (v : Byte) : (s.store a v).draws = s.draws := rfl
@[simp] theorem State.store_inbox (s : State) (a : Word) (v : Byte) : (s.store a v).inbox = s.inbox := rfl
@[simp] theorem State.store_reg (s : State) (a : Word) (v : Byte) (r : Nibble) : (s.store a v).reg r = s.reg r := rfl
@[simp] theorem State.store_cell (s : State) (a : Word) (v : Byte) (px py : Nat) : (s.store a v).cell px py = s.cell px py := rfl
@[simp] theorem State.store_key (s : State) (a : Word) (v : Byte) (k' : Nibble) : (s.store a v).key k' = s.key k' := rfl
@[simp] theorem State.store_indexed (s : State) (a : Word) (v : Byte) (n : Nat) : (s.store a v).indexed n = s.indexed n := rfl

/-! `setPc` -/

@[simp] theorem State.setPc_mem (s : State) (p : Word) : (s.setPc p).mem = s.mem := rfl
@[simp] theorem State.setPc_V (s : State) (p : Word) : (s.setPc p).V = s.V := rfl
@[simp] theorem State.setPc_I (s : State) (p : Word) : (s.setPc p).I = s.I := rfl
@[simp] theorem State.setPc_pc (s : State) (p : Word) : (s.setPc p).pc = p := rfl
@[simp] theorem State.setPc_stack (s : State) (p : Word) : (s.setPc p).stack = s.stack := rfl
@[simp] theorem State.setPc_DT (s : State) (p : Word) : (s.setPc p).DT = s.DT := rfl
@[simp] theorem State.setPc_ST (s : State) (p : Word) : (s.setPc p).ST = s.ST := rfl
@[simp] theorem State.setPc_gfx (s : State) (p : Word) : (s.setPc p).gfx = s.gfx := rfl
@[simp] theorem State.setPc_keys (s : State) (p : Word) : (s.setPc p).keys = s.keys := rfl
@[simp] theorem State.setPc_run (s : State) (p : Word) : (s.setPc p).run = s.run := rfl
@[simp] theorem State.setPc_cfg (s : State) (p : Word) : (s.setPc p).cfg = s.cfg := rfl
@[simp] theorem State.setPc_rnd (s : State) (p : Word) : (s.setPc p).rnd = s.rnd := rfl
@[simp] theorem State.setPc_draws (s : State) (p : Word) : (s.setPc p).draws = s.draws := rfl
@[simp] theorem State.setPc_inbox (s : State) (p : Word) : (s.setPc p).inbox = s.inbox := rfl
@[simp] theorem State.setPc_reg (s : State) (p : Word) (r : Nibble) : (s.setPc p).reg r = s.reg r := rfl
@[simp] theorem State.setPc_load (s : State) (p : Word) (a' : Word) : (s.setPc p).load a' = s.load a' := rfl
@[simp] theorem State.setPc_cell (s : State) (p : Word) (px py : Nat) : (s.setPc p).cell px py = s.cell px py := rfl
@[simp] theorem State.setPc_key (s : State) (p : Word) (k' : Nibble) : (s.setPc p).key k' = s.key k' := rfl
@[simp] theorem State.setPc_indexed (s : State) (p : Word) (n : Nat) : (s.setPc p).indexed n = s.indexed n := rfl

/-! `advance` -/

@[simp] theorem State.advance_mem (s : State) : (s.advance).mem = s.mem := rfl
@[simp] theorem State.advance_V (s : State) : (s.advance).V = s.V := rfl
@[simp] theorem State.advance_I (s : State) : (s.advance).I = s.I := rfl
@[simp] theorem State.advance_pc (s : State) : (s.advance).pc = s.pc + 2 := rfl
@[simp] theorem State.advance_stack (s : State) : (s.advance).stack = s.stack := rfl
@[simp] theorem State.advance_DT (s : State) : (s.advance).DT = s.DT := rfl
@[simp] theorem State.advance_ST (s : State) : (s.advance).ST = s.ST := rfl
@[simp] theorem State.advance_gfx (s : State) : (s.advance).gfx = s.gfx := rfl
@[simp] theorem State.advance_keys (s : State) : (s.advance).keys = s.keys := rfl
@[simp] theorem State.advance_run (s : State) : (s.advance).run = s.run := rfl
@[simp] theorem State.advance_cfg (s : State) : (s.advance).cfg = s.cfg := rfl
@[simp] theorem State.advance_rnd (s : State) : (s.advance).rnd = s.rnd := rfl
@[simp] theorem State.advance_draws (s : State) : (s.advance).draws = s.draws := rfl
@[simp] theorem State.advance_inbox (s : State) : (s.advance).inbox = s.inbox := rfl
@[simp] theorem State.advance_reg (s : State) (r : Nibble) : (s.advance).reg r = s.reg r := rfl
@[simp] theorem State.advance_load (s : State) (a' : Word) : (s.advance).load a' = s.load a' := rfl
@[simp] theorem State.advance_cell (s : State) (px py : Nat) : (s.advance).cell px py = s.cell px py := rfl
@[simp] theorem State.advance_key (s : State) (k' : Nibble) : (s.advance).key k' = s.key k' := rfl
@[simp] theorem State.advance_indexed (s : State) (n : Nat) : (s.advance).indexed n = s.indexed n := rfl

/-! `skip` -/

@[simp] theorem State.skip_mem (s : State) (c : Bool) : (s.skip c).mem = s.mem := rfl
@[simp] theorem State.skip_V (s : State) (c : Bool) : (s.skip c).V = s.V := rfl
@[simp] theorem State.skip_I (s : State) (c : Bool) : (s.skip c).I = s.I := rfl
@[simp] theorem State.skip_pc (s : State) (c : Bool) : (s.skip c).pc = if c then s.pc + 2 + 2 else s.pc + 2 := rfl
@[simp] theorem State.skip_stack (s : State) (c : Bool) : (s.skip c).stack = s.stack := rfl
@[simp] theorem State.skip_DT (s : State) (c : Bool) : (s.skip c).DT = s.DT := rfl
@[simp] theorem State.skip_ST (s : State) (c : Bool) : (s.skip c).ST = s.ST := rfl
@[simp] theorem State.skip_gfx (s : State) (c : Bool) : (s.skip c).gfx = s.gfx := rfl
@[simp] theorem State.skip_keys (s : State) (c : Bool) : (s.skip c).keys = s.keys := rfl
@[simp] theorem State.skip_run (s : State) (c : Bool) : (s.skip c).run = s.run := rfl
@[simp] theorem State.skip_cfg (s : State) (c : Bool) : (s.skip c).cfg = s.cfg := rfl
@[simp] theorem State.skip_rnd (s : State) (c : Bool) : (s.skip c).rnd = s.rnd := rfl
@[simp] theorem State.skip_draws (s : State) (c : Bool) : (s.skip c).draws = s.draws := rfl
@[simp] theorem State.skip_inbox (s : State) (c : Bool) : (s.skip c).inbox = s.inbox := rfl
@[simp] theorem State.skip_reg (s : State) (c : Bool) (r : Nibble) : (s.skip c).reg r = s.reg r := rfl
@[simp] theorem State.skip_load (s : State) (c : Bool) (a' : Word) : (s.skip c).load a' = s.load a' := rfl
@[simp] theorem State.skip_cell (s : State) (c : Bool) (px py : Nat) : (s.skip c).cell px py = s.cell px py := rfl
@[simp] theorem State.skip_key (s : State) (c : Bool) (k' : Nibble) : (s.skip c).key k' = s.key k' := rfl
@[simp] theorem State.skip_indexed (s : State) (c : Bool) (n : Nat) : (s.skip c).indexed n = s.indexed n := rfl

/-! `raise` -/

@[simp] theorem State.raise_mem (s : State) (c : Cause) : (s.raise c).mem = s.mem := rfl
@[simp] theorem State.raise_V (s : State) (c : Cause) : (s.raise c).V = s.V := rfl
@[simp] theorem State.raise_I (s : State) (c : Cause) : (s.raise c).I = s.I := rfl
@[simp] theorem State.raise_pc (s : State) (c : Cause) : (s.raise c).pc = s.pc := rfl
@[simp] theorem State.raise_stack (s : State) (c : Cause) : (s.raise c).stack = s.stack := rfl
@[simp] theorem State.raise_DT (s : State) (c : Cause) : (s.raise c).DT = s.DT := rfl
@[simp] theorem State.raise_ST (s : State) (c : Cause) : (s.raise c).ST = s.ST := rfl
@[simp] theorem State.raise_gfx (s : State) (c : Cause) : (s.raise c).gfx = s.gfx := rfl
@[simp] theorem State.raise_keys (s : State) (c : Cause) : (s.raise c).keys = s.keys := rfl
@[simp] theorem State.raise_run (s : State) (c : Cause) : (s.raise c).run = .halted c s.fetchWord s.pc := rfl
@[simp] theorem State.raise_cfg (s : State) (c : Cause) : (s.raise c).cfg = s.cfg := rfl
@[simp] theorem State.raise_rnd (s : State) (c : Cause) : (s.raise c).rnd = s.rnd := rfl
@[simp] theorem State.raise_draws (s : State) (c : Cause) : (s.raise c).draws = s.draws := rfl
@[simp] theorem State.raise_inbox (s : State) (c : Cause) : (s.raise c).inbox = s.inbox := rfl
@[simp] theorem State.raise_reg (s : State) (c : Cause) (r : Nibble) : (s.raise c).reg r = s.reg r := rfl
@[simp] theorem State.raise_load (s : State) (c : Cause) (a' : Word) : (s.raise c).load a' = s.load a' := rfl
@[simp] theorem State.raise_cell (s : State) (c : Cause) (px py : Nat) : (s.raise c).cell px py = s.cell px py := rfl
@[simp] theorem State.raise_key (s : State) (c : Cause) (k' : Nibble) : (s.raise c).key k' = s.key k' := rfl
@[simp] theorem State.raise_fetchWord (s : State) (c : Cause) : (s.raise c).fetchWord = s.fetchWord := rfl
@[simp] theorem State.raise_indexed (s : State) (c : Cause) (n : Nat) : (s.raise c).indexed n = s.indexed n := rfl

/-! `push` -/

@[simp] theorem State.push_mem (s : State) (v : Word) : (s.push v).mem = s.mem := rfl
@[simp] theorem State.push_V (s : State) (v : Word) : (s.push v).V = s.V := rfl
@[simp] theorem State.push_I (s : State) (v : Word) : (s.push v).I = s.I := rfl
@[simp] theorem State.push_pc (s : State) (v : Word) : (s.push v).pc = s.pc := rfl
@[simp] theorem State.push_stack (s : State) (v : Word) : (s.push v).stack = s.stack ++ [v] := rfl
@[simp] theorem State.push_DT (s : State) (v : Word) : (s.push v).DT = s.DT := rfl
@[simp] theorem State.push_ST (s : State) (v : Word) : (s.push v).ST = s.ST := rfl
@[simp] theorem State.push_gfx (s : State) (v : Word) : (s.push v).gfx = s.gfx := rfl
@[simp] theorem State.push_keys (s : State) (v : Word) : (s.push v).keys = s.keys := rfl
@[simp] theorem State.push_run (s : State) (v : Word) : (s.push v).run = s.run := rfl
@[simp] theorem State.push_cfg (s : State) (v : Word) : (s.push v).cfg = s.cfg := rfl
@[simp] theorem State.push_rnd (s : State) (v : Word) : (s.push v).rnd = s.rnd := rfl
@[simp] theorem State.push_draws (s : State) (v : Word) : (s.push v).draws = s.draws := rfl
@[simp] theorem State.push_inbox (s : State) (v : Word) : (s.push v).inbox = s.inbox := rfl
@[simp] theorem State.push_reg (s : State) (v : Word) (r : Nibble) : (s.push v).reg r = s.reg r := rfl
@[simp] theorem State.push_load (s : State) (v : Word) (a' : Word) : (s.push v).load a' = s.load a' := rfl
@[simp] theorem State.push_cell (s : State) (v : Word) (px py : Nat) : (s.push v).cell px py = s.cell px py := rfl
@[simp] theorem State.push_key (s : State) (v : Word) (k' : Nibble) : (s.push v).key k' = s.key k' := rfl
@[simp] theorem State.push_fetchWord (s : State) (v : Word) : (s.push v).fetchWord = s.fetchWord := rfl
@[simp] theorem State.push_indexed (s : State) (v : Word) (n : Nat) : (s.push v).indexed n = s.indexed n := rfl

/-! `setI` -/

@[simp] theorem State.setI_mem (s : State) (v : Word) : (s.setI v).mem = s.mem := rfl
@[simp] theorem State.setI_V (s : State) (v : Word) : (s.setI v).V = s.V := rfl
@[simp] theorem State.setI_I (s : State) (v : Word) : (s.setI v).I = v := rfl
@[simp] theorem State.setI_pc (s : State) (v : Word) : (s.setI v).pc = s.pc := rfl
@[simp] theorem State.setI_stack (s : State) (v : Word) : (s.setI v).stack = s.stack := rfl
@[simp] theorem State.setI_DT (s : State) (v : Word) : (s.setI v).DT = s.DT := rfl
@[simp] theorem State.setI_ST (s : State) (v : Word) : (s.setI v).ST = s.ST := rfl
@[simp] theorem State.setI_gfx (s : State) (v : Word) : (s.setI v).gfx = s.gfx := rfl
@[simp] theorem State.setI_keys (s : State) (v : Word) : (s.setI v).keys = s.keys := rfl
@[simp] theorem State.setI_run (s : State) (v : Word) : (s.setI v).run = s.run := rfl
@[simp] theorem State.setI_cfg (s : State) (v : Word) : (s.setI v).cfg = s.cfg := rfl
@[simp] theorem State.setI_rnd (s : State) (v : Word) : (s.setI v).rnd = s.rnd := rfl
@[simp] theorem State.setI_draws (s : State) (v : Word) : (s.setI v).draws = s.draws := rfl
@[simp] theorem State.setI_inbox (s : State) (v : Word) : (s.setI v).inbox = s.inbox := rfl
@[simp] theorem State.setI_reg (s : State) (v : Word) (r : Nibble) : (s.setI v).reg r = s.reg r := rfl
@[simp] theorem State.setI_load (s : State) (v : Word) (a' : Word) : (s.setI v).load a' = s.load a' := rfl
@[simp] theorem State.setI_cell (s : State) (v : Word) (px py : Nat) : (s.setI v).cell px py = s.cell px py := rfl
@[simp] theorem State.setI_key (s : State) (v : Word) (k' : Nibble) : (s.setI v).key k' = s.key k' := rfl
@[simp] theorem State.setI_fetchWord (s : State) (v : Word) : (s.setI v).fetchWord = s.fetchWord := rfl

/-! `setDT` -/

@[simp] theorem State.setDT_mem (s : State) (v : Byte) : (s.setDT v).mem = s.mem := rfl
@[simp] theorem State.setDT_V (s : State) (v : Byte) : (s.setDT v).V = s.V := rfl
@[simp] theorem State.setDT_I (s : State) (v : Byte) : (s.setDT v).I = s.I := rfl
@[simp] theorem State.setDT_pc (s : State) (v : Byte) : (s.setDT v).pc = s.pc := rfl
@[simp] theorem State.setDT_stack (s : State) (v : Byte) : (s.setDT v).stack = s.stack := rfl
@[simp] theorem State.setDT_DT (s : State) (v : Byte) : (s.setDT v).DT = v := rfl
@[simp] theorem State.setDT_ST (s : State) (v : Byte) : (s.setDT v).ST = s.ST := rfl
@[simp] theorem State.setDT_gfx (s : State) (v : Byte) : (s.setDT v).gfx = s.gfx := rfl
@[simp] theorem State.setDT_keys (s : State) (v : Byte) : (s.setDT v).keys = s.keys := rfl
@[simp] theorem State.setDT_run (s : State) (v : Byte) : (s.setDT v).run = s.run := rfl
@[simp] theorem State.setDT_cfg (s : State) (v : Byte) : (s.setDT v).cfg = s.cfg := rfl
@[simp] theorem State.setDT_rnd (s : State) (v : Byte) : (s.setDT v).rnd = s.rnd := rfl
@[simp] theorem State.setDT_draws (s : State) (v : Byte) : (s.setDT v).draws = s.draws := rfl
@[simp] theorem State.setDT_inbox (s : State) (v : Byte) : (s.setDT v).inbox = s.inbox := rfl
@[simp] theorem State.setDT_reg (s : State) (v : Byte) (r : Nibble) : (s.setDT v).reg r = s.reg r := rfl
@[simp] theorem State.setDT_load (s : State) (v : Byte) (a' : Word) : (s.setDT v).load a' = s.load a' := rfl
@[simp] theorem State.setDT_cell (s : State) (v : Byte) (px py : Nat) : (s.setDT v).cell px py = s.cell px py := rfl
@[simp] theorem State.setDT_key (s : State) (v : Byte) (k' : Nibble) : (s.setDT v).key k' = s.key k' := rfl
@[simp] theorem State.setDT_fetchWord (s : State) (v : Byte) : (s.setDT v).fetchWord = s.fetchWord := rfl
@[simp] theorem State.setDT_indexed (s : State) (v : Byte) (n : Nat) : (s.setDT v).indexed n = s.indexed n := rfl

/-! `setST` -/

@[simp] theorem State.setST_mem (s : State) (v : Byte) : (s.setST v).mem = s.mem := rfl
@[simp] theorem State.setST_V (s : State) (v : Byte) : (s.setST v).V = s.V := rfl
@[simp] theorem State.setST_I (s : State) (v : Byte) : (s.setST v).I = s.I := rfl
@[simp] theorem State.setST_pc (s : State) (v : Byte) : (s.setST v).pc = s.pc := rfl
@[simp] theorem State.setST_stack (s : State) (v : Byte) : (s.setST v).stack = s.stack := rfl
@[simp] theorem State.setST_DT (s : State) (v : Byte) : (s.setST v).DT = s.DT := rfl
@[simp] theorem State.setST_ST (s : State) (v : Byte) : (s.setST v).ST = v := rfl
@[simp] theorem State.setST_gfx (s : State) (v : Byte) : (s.setST v).gfx = s.gfx := rfl
@[simp] theorem State.setST_keys (s : State) (v : Byte) : (s.setST v).keys = s.keys := rfl
@[simp] theorem State.setST_run (s : State) (v : Byte) : (s.setST v).run = s.run := rfl
@[simp] theorem State.setST_cfg (s : State) (v : Byte) : (s.setST v).cfg = s.cfg := rfl
@[simp] theorem State.setST_rnd (s : State) (v : Byte) : (s.setST v).rnd = s.rnd := rfl
@[simp] theorem State.setST_draws (s : State) (v : Byte) : (s.setST v).draws = s.draws := rfl
@[simp] theorem State.setST_inbox (s : State) (v : Byte) : (s.setST v).inbox = s.inbox := rfl
@[simp] theorem State.setST_reg (s : State) (v : Byte) (r : Nibble) : (s.setST v).reg r = s.reg r := rfl
@[simp] theorem State.setST_load (s : State) (v : Byte) (a' : Word) : (s.setST v).load a' = s.load a' := rfl
@[simp] theorem State.setST_cell (s : State) (v : Byte) (px py : Nat) : (s.setST v).cell px py = s.cell px py := rfl
@[simp] theorem State.setST_key (s : State) (v : Byte) (k' : Nibble) : (s.setST v).key k' = s.key k' := rfl
@[simp] theorem State.setST_fetchWord (s : State) (v : Byte) : (s.setST v).fetchWord = s.fetchWord := rfl
@[simp] theorem State.setST_indexed (s : State) (v : Byte) (n : Nat) : (s.setST v).indexed n = s.indexed n := rfl

/-! `setKey` -/

@[simp] theorem State.setKey_mem (s : State) (k : Nibble) (b : Bool) : (s.setKey k b).mem = s.mem := rfl
@[simp] theorem State.setKey_V (s : State) (k : Nibble) (b : Bool) : (s.setKey k b).V = s.V := rfl
@[simp] theorem State.setKey_I (s : State) (k : Nibble) (b : Bool) : (s.setKey k b).I = s.I := rfl
@[simp] theorem State.setKey_pc (s : State) (k : Nibble) (b : Bool) : (s.setKey k b).pc = s.pc := rfl
@[simp] theorem State.setKey_stack (s : State) (k : Nibble) (b : Bool) : (s.setKey k b).stack = s.stack := rfl
@[simp] theorem State.setKey_DT (s : State) (k : Nibble) (b : Bool) : (s.setKey k b).DT = s.DT := rfl
@[simp] theorem State.setKey_ST (s : State) (k : Nibble) (b : Bool) : (s.setKey k b).ST = s.ST := rfl
@[simp] theorem State.setKey_gfx (s : State) (k : Nibble) (b : Bool) : (s.setKey k b).gfx = s.gfx := rfl
@[simp] theorem State.setKey_keys (s : State) (k : Nibble) (b : Bool) : (s.setKey k b).keys = s.keys.set k.toNat b k.isLt := rfl
@[simp] theorem State.setKey_run (s : State) (k : Nibble) (b : Bool) : (s.setKey k b).run = s.run := rfl
@[simp] theorem State.setKey_cfg (s : State) (k : Nibble) (b : Bool) : (s.setKey k b).cfg = s.cfg := rfl
@[simp] theorem State.setKey_rnd (s : State) (k : Nibble) (b : Bool) : (s.setKey k b).rnd = s.rnd := rfl
@[simp] theorem State.setKey_draws (s : State) (k : Nibble) (b : Bool) : (s.setKey k b).draws = s.draws := rfl
@[simp] theorem State.setKey_inbox (s : State) (k : Nibble) (b : Bool) : (s.setKey k b).inbox = s.inbox := rfl
@[simp] theorem State.setKey_reg (s : State) (k : Nibble) (b : Bool) (r : Nibble) : (s.setKey k b).reg r = s.reg r := rfl
@[simp] theorem State.setKey_load (s : State) (k : Nibble) (b : Bool) (a' : Word) : (s.setKey k b).load a' = s.load a' := rfl
@[simp] theorem State.setKey_cell (s : State) (k : Nibble) (b : Bool) (px py : Nat) : (s.setKey k b).cell px py = s.cell px py := rfl
@[simp] theorem State.setKey_fetchWord (s : State) (k : Nibble) (b : Bool) : (s.setKey k b).fetchWord = s.fetchWord := rfl
@[simp] theorem State.setKey_indexed (s : State) (k : Nibble) (b : Bool) (n : Nat) : (s.setKey k b).indexed n = s.indexed n := rfl

/-! `awaitKey` -/

@[simp] theorem State.awaitKey_mem (s : State) (t : Nibble) : (s.awaitKey t).mem = s.mem := rfl
@[simp] theorem State.awaitKey_V (s : State) (t : Nibble) : (s.awaitKey t).V = s.V := rfl
@[simp] theorem State.awaitKey_I (s : State) (t : Nibble) : (s.awaitKey t).I = s.I := rfl
@[simp] theorem State.awaitKey_pc (s : State) (t : Nibble) : (s.awaitKey t).pc = s.pc := rfl
@[simp] theorem State.awaitKey_stack (s : State) (t : Nibble) : (s.awaitKey t).stack = s.stack := rfl
@[simp] theorem State.awaitKey_DT (s : State) (t : Nibble) : (s.awaitKey t).DT = s.DT := rfl
@[simp] theorem State.awaitKey_ST (s : State) (t : Nibble) : (s.awaitKey t).ST = s.ST := rfl
@[simp] theorem State.awaitKey_gfx (s : State) (t : Nibble) : (s.awaitKey t).gfx = s.gfx := rfl
@[simp] theorem State.awaitKey_keys (s : State) (t : Nibble) : (s.awaitKey t).keys = s.keys := rfl
@[simp] theorem State.awaitKey_run (s : State) (t : Nibble) : (s.awaitKey t).run = .awaitingKey t := rfl
@[simp] theorem State.awaitKey_cfg (s : State) (t : Nibble) : (s.awaitKey t).cfg = s.cfg := rfl
@[simp] theorem State.awaitKey_rnd (s : State) (t : Nibble) : (s.awaitKey t).rnd = s.rnd := rfl
@[simp] theorem State.awaitKey_draws (s : State) (t : Nibble) : (s.awaitKey t).draws = s.draws := rfl
@[simp] theorem State.awaitKey_inbox (s : State) (t : Nibble) : (s.awaitKey t).inbox = s.inbox := rfl
@[simp] theorem State.awaitKey_reg (s : State) (t : Nibble) (r : Nibble) : (s.awaitKey t).reg r = s.reg r := rfl
@[simp] theorem State.awaitKey_load (s : State) (t : Nibble) (a' : Word) : (s.awaitKey t).load a' = s.load a' := rfl
@[simp] theorem State.awaitKey_cell (s : State) (t : Nibble) (px py : Nat) : (s.awaitKey t).cell px py = s.cell px py := rfl
@[simp] theorem State.awaitKey_key (s : State) (t : Nibble) (k' : Nibble) : (s.awaitKey t).key k' = s.key k' := rfl
@[simp] theorem State.awaitKey_fetchWord (s : State) (t : Nibble) : (s.awaitKey t).fetchWord = s.fetchWord := rfl
@[simp] theorem State.awaitKey_indexed (s : State) (t : Nibble) (n : Nat) : (s.awaitKey t).indexed n = s.indexed n := rfl

/-! `setGfx` -/

@[simp] theorem State.setGfx_mem (s : State) (g : Bitmap) : (s.setGfx g).mem = s.mem := rfl
@[simp] theorem State.setGfx_V (s : State) (g : Bitmap) : (s.setGfx g).V = s.V := rfl
@[simp] theorem State.setGfx_I (s : State) (g : Bitmap) : (s.setGfx g).I = s.I := rfl
@[simp] theorem State.setGfx_pc (s : State) (g : Bitmap) : (s.setGfx g).pc = s.pc := rfl
@[simp] theorem State.setGfx_stack (s : State) (g : Bitmap) : (s.setGfx g).stack = s.stack := rfl
@[simp] theorem State.setGfx_DT (s : State) (g : Bitmap) : (s.setGfx g).DT = s.DT := rfl
@[simp] theorem State.setGfx_ST (s : State) (g : Bitmap) : (s.setGfx g).ST = s.ST := rfl
@[simp] theorem State.setGfx_gfx (s : State) (g : Bitmap) : (s.setGfx g).gfx = g := rfl
@[simp] theorem State.setGfx_keys (s : State) (g : Bitmap) : (s.setGfx g).keys = s.keys := rfl
@[simp] theorem State.setGfx_run (s : State) (g : Bitmap) : (s.setGfx g).run = s.run := rfl
@[simp] theorem State.setGfx_cfg (s : State) (g : Bitmap) : (s.setGfx g).cfg = s.cfg := rfl
@[simp] theorem State.setGfx_rnd (s : State) (g : Bitmap) : (s.setGfx g).rnd = s.rnd := rfl
@[simp] theorem State.setGfx_draws (s : State) (g : Bitmap) : (s.setGfx g).draws = s.draws := rfl
@[simp] theorem State.setGfx_inbox (s : State) (g : Bitmap) : (s.setGfx g).inbox = s.inbox := rfl
@[simp] theorem State.setGfx_reg (s : State) (g : Bitmap) (r : Nibble) : (s.setGfx g).reg r = s.reg r := rfl
@[simp] theorem State.setGfx_load (s : State) (g : Bitmap) (a' : Word) : (s.setGfx g).load a' = s.load a' := rfl
@[simp] theorem State.setGfx_key (s : State) (g : Bitmap) (k' : Nibble) : (s.setGfx g).key k' = s.key k' := rfl
@[simp] theorem State.setGfx_fetchWord (s : State) (g : Bitmap) : (s.setGfx g).fetchWord = s.fetchWord := rfl
@[simp] theorem State.setGfx_indexed (s : State) (g : Bitmap) (n : Nat) : (s.setGfx g).indexed n = s.indexed n := rfl

/-! `withRnd` -/

@[simp] theorem State.withRnd_mem (s : State) (b : Byte) : (s.withRnd b).mem = s.mem := rfl
@[simp] theorem State.withRnd_V (s : State) (b : Byte) : (s.withRnd b).V = s.V := rfl
@[simp] theorem State.withRnd_I (s : State) (b : Byte) : (s.withRnd b).I = s.I := rfl
@[simp] theorem State.withRnd_pc (s : State) (b : Byte) : (s.withRnd b).pc = s.pc := rfl
@[simp] theorem State.withRnd_stack (s : State) (b : Byte) : (s.withRnd b).stack = s.stack := rfl
@[simp] theorem State.withRnd_DT (s : State) (b : Byte) : (s.withRnd b).DT = s.DT := rfl
@[simp] theorem State.withRnd_ST (s : State) (b : Byte) : (s.withRnd b).ST = s.ST := rfl
@[simp] theorem State.withRnd_gfx (s : State) (b : Byte) : (s.withRnd b).gfx = s.gfx := rfl
@[simp] theorem State.withRnd_keys (s : State) (b : Byte) : (s.withRnd b).keys = s.keys := rfl
@[simp] theorem State.withRnd_run (s : State) (b : Byte) : (s.withRnd b).run = s.run := rfl
@[simp] theorem State.withRnd_cfg (s : State) (b : Byte) : (s.withRnd b).cfg = s.cfg := rfl
@[simp] theorem State.withRnd_rnd (s : State) (b : Byte) : (s.withRnd b).rnd = b := rfl
@[simp] theorem State.withRnd_draws (s : State) (b : Byte) : (s.withRnd b).draws = s.draws := rfl
@[simp] theorem State.withRnd_inbox (s : State) (b : Byte) : (s.withRnd b).inbox = s.inbox := rfl
@[simp] theorem State.withRnd_reg (s : State) (b : Byte) (r : Nibble) : (s.withRnd b).reg r = s.reg r := rfl
@[simp] theorem State.withRnd_load (s : State) (b : Byte) (a' : Word) : (s.withRnd b).load a' = s.load a' := rfl
@[simp] theorem State.withRnd_cell (s : State) (b : Byte) (px py : Nat) : (s.withRnd b).cell px py = s.cell px py := rfl
@[simp] theorem State.withRnd_key (s : State) (b : Byte) (k' : Nibble) : (s.withRnd b).key k' = s.key k' := rfl
@[simp] theorem State.withRnd_fetchWord (s : State) (b : Byte) : (s.withRnd b).fetchWord = s.fetchWord := rfl
@[simp] theorem State.withRnd_indexed (s : State) (b : Byte) (n : Nat) : (s.withRnd b).indexed n = s.indexed n := rfl

/-! `tick` -/

@[simp] theorem State.tick_mem (s : State) : (s.tick).mem = s.mem := rfl
@[simp] theorem State.tick_V (s : State) : (s.tick).V = s.V := rfl
@[simp] theorem State.tick_I (s : State) : (s.tick).I = s.I := rfl
@[simp] theorem State.tick_pc (s : State) : (s.tick).pc = s.pc := rfl
@[simp] theorem State.tick_stack (s : State) : (s.tick).stack = s.stack := rfl
@[simp] theorem State.tick_DT (s : State) : (s.tick).DT = countDown s.DT := rfl
@[simp] theorem State.tick_ST (s : State) : (s.tick).ST = countDown s.ST := rfl
@[simp] theorem State.tick_gfx (s : State) : (s.tick).gfx = s.gfx := rfl
@[simp] theorem State.tick_keys (s : State) : (s.tick).keys = s.keys := rfl
@[simp] theorem State.tick_run (s : State) : (s.tick).run = s.run := rfl
@[simp] theorem State.tick_cfg (s : State) : (s.tick).cfg = s.cfg := rfl
@[simp] theorem State.tick_rnd (s : State) : (s.tick).rnd = s.rnd := rfl
@[simp] theorem State.tick_draws (s : State) : (s.tick).draws = s.draws := rfl
@[simp] theorem State.tick_inbox (s : State) : (s.tick).inbox = s.inbox := rfl
@[simp] theorem State.tick_reg (s : State) (r : Nibble) : (s.tick).reg r = s.reg r := rfl
@[simp] theorem State.tick_load (s : State) (a' : Word) : (s.tick).load a' = s.load a' := rfl
@[simp] theorem State.tick_cell (s : State) (px py : Nat) : (s.tick).cell px py = s.cell px py := rfl
@[simp] theorem State.tick_key (s : State) (k' : Nibble) : (s.tick).key k' = s.key k' := rfl
@[simp] theorem State.tick_fetchWord (s : State) : (s.tick).fetchWord = s.fetchWord := rfl
@[simp] theorem State.tick_indexed (s : State) (n : Nat) : (s.tick).indexed n = s.indexed n := rfl

/-! What is read after a write. -/

@[simp] theorem State.reg_setReg (s : State) (i j : Nibble) (v : Byte) :
    (s.setReg i v).reg j = if i = j then v else s.reg j := by
  simp [State.reg, State.setReg, Vector.getElem_set, BitVec.toNat_inj]

/-- The flag is written last: VF holds it whatever the result register is. -/
@[simp] theorem State.reg_setResultFlag (s : State) (x j : Nibble) (r f : Byte) :
    (s.setResultFlag x r f).reg j = if VF = j then f else if x = j then r else s.reg j := by
  simp [State.setResultFlag]

@[simp] theorem State.key_setKey (s : State) (k j : Nibble) (b : Bool) :
    (s.setKey k b).key j = if k = j then b else s.key j := by
  simp [State.key, State.setKey, Vector.getElem_set, BitVec.toNat_inj]

@[simp] theorem State.cell_setGfx (s : State) (g : Bitmap) (px py : Nat) :
    (s.setGfx g).cell px py = Bitmap.cell g px py := rfl

@[simp] theorem Bitmap.cell_replicate_zero (px py : Nat) : Bitmap.cell (Vector.replicate 32 0#64) px py = false := by
  simp [Bitmap.cell]

/-! The state after Reset (R54). -/

@[simp] theorem State.reg_initial (cfg : Config) (r : Nibble) : (State.initial cfg).reg r = 0 := by
  simp [State.initial, State.reg]

@[simp] theorem State.key_initial (cfg : Config) (k : Nibble) : (State.initial cfg).key k = false := by
  simp [State.initial, State.key]

@[simp] theorem State.cell_initial (cfg : Config) (px py : Nat) : (State.initial cfg).cell px py = false := by
  simp [State.initial, State.cell]

@[simp] theorem State.load_initial (cfg : Config) (a : Word) :
    (State.initial cfg).load a = resetByte cfg (reduce a) := rfl

end Sys2Proof.Machine
end

