-- ==== Sys2Proof/Laws/Display.lean ====
section
/-! SUPPORT. The framebuffer: what DrawSprite's loops leave in every cell, and when they report a collision. -/

namespace Sys2Proof.Machine

open Sys2Proof.Safety

theorem Bitmap.cell_toggle (g : Bitmap) {a b px py : Nat} (hx : px < 64) (hb : b < 32) :
    Bitmap.cell (Bitmap.toggle g a b) px py = xor (Bitmap.cell g px py) (decide (px = a ∧ py = b)) := by
  by_cases hy : py < 32
  · by_cases e : py = b
    · subst e
      simp [Bitmap.cell, Bitmap.toggle, hy, hx]
    · simp [Bitmap.cell, Bitmap.toggle, hy, hb, e, Ne.symm e]
  · have e : py ≠ b := by omega
    simp [Bitmap.cell, hy, e]

theorem spriteColumn_eq_iff {x0 px c : Nat} (hx : px < 64) (hc : c < 8) :
    spriteColumn x0 px = c ↔ px = (x0 + c) % 64 := by
  unfold spriteColumn; omega

/-- The first `m` columns of one sprite row. -/
theorem drawPixels_spec (x0 : Nat) {py : Nat} (hpy : py < 32) (b : Byte) (k : Canvas) {m : Nat} (hm : m ≤ 8) :
    (∀ px qy, px < 64 → Bitmap.cell ((List.range m).foldl (drawPixel x0 py b) k).gfx px qy =
      xor (Bitmap.cell k.gfx px qy)
        (decide (qy = py ∧ spriteColumn x0 px < m) && b.getLsbD (7 - spriteColumn x0 px))) ∧
    (((List.range m).foldl (drawPixel x0 py b) k).hit = true ↔ k.hit = true ∨
      ∃ px, px < 64 ∧ spriteColumn x0 px < m ∧ b.getLsbD (7 - spriteColumn x0 px) = true ∧
        Bitmap.cell k.gfx px py = true) := by
  induction m with
  | zero => simp
  | succ m ih =>
    obtain ⟨ihc, ihh⟩ := ih (by omega)
    rw [List.range_succ, List.foldl_append]
    simp only [List.foldl_cons, List.foldl_nil]
    generalize (List.range m).foldl (drawPixel x0 py b) k = k' at ihc ihh
    have hcol : ∀ px, px < 64 → (spriteColumn x0 px = m ↔ px = (x0 + m) % 64) :=
      fun px hx => spriteColumn_eq_iff hx (by omega)
    have hlt : (x0 + m) % 64 < 64 := Nat.mod_lt _ (by decide)
    have hself : spriteColumn x0 ((x0 + m) % 64) = m := (hcol _ hlt).mpr rfl
    by_cases hb : b.getLsbD (7 - m) = true
    · have hk : drawPixel x0 py b k' m = ⟨Bitmap.toggle k'.gfx ((x0 + m) % 64) py,
          k'.hit || Bitmap.cell k'.gfx ((x0 + m) % 64) py⟩ := by simp [drawPixel, hb]
      rw [hk]
      constructor
      · intro px qy hx
        rw [Bitmap.cell_toggle _ hx hpy, ihc px qy hx]
        by_cases e : spriteColumn x0 px = m
        · have e2 := (hcol px hx).mp e
          by_cases hq : qy = py <;> simp [hq, ← e2, e, hb]
        · have e2 : px ≠ (x0 + m) % 64 := fun h => e ((hcol px hx).mpr h)
          have e3 : spriteColumn x0 px < m + 1 ↔ spriteColumn x0 px < m := by omega
          simp [e2, e3]
      · have hc := ihc ((x0 + m) % 64) py hlt
        simp only [hself, Nat.lt_irrefl, and_false, decide_false, Bool.false_and, Bool.xor_false] at hc
        simp only [Bool.or_eq_true, ihh, hc]
        constructor
        · rintro ((h | ⟨px, h1, h2, h3⟩) | h)
          · exact .inl h
          · exact .inr ⟨px, h1, by omega, h3⟩
          · exact .inr ⟨_, hlt, by omega, by rw [hself]; exact hb, h⟩
        · rintro (h | ⟨px, h1, h2, h3, h4⟩)
          · exact .inl (.inl h)
          · by_cases e : spriteColumn x0 px = m
            · rw [(hcol px h1).mp e] at h4; exact .inr h4
            · exact .inl (.inr ⟨px, h1, by omega, h3, h4⟩)
    · have hk : drawPixel x0 py b k' m = k' := by simp [drawPixel, hb]
      rw [hk]
      constructor
      · intro px qy hx
        rw [ihc px qy hx]
        by_cases e : spriteColumn x0 px = m
        · simp [e, hb]
        · have e3 : spriteColumn x0 px < m + 1 ↔ spriteColumn x0 px < m := by omega
          simp [e3]
      · rw [ihh]
        constructor
        · rintro (h | ⟨px, h1, h2, h3⟩)
          · exact .inl h
          · exact .inr ⟨px, h1, by omega, h3⟩
        · rintro (h | ⟨px, h1, h2, h3, h4⟩)
          · exact .inl h
          · by_cases e : spriteColumn x0 px = m
            · rw [e] at h3; exact absurd h3 hb
            · exact .inr ⟨px, h1, by omega, h3, h4⟩

/-- DRAWING: every cell is XORed with the sprite's bit there, and a collision is reported exactly when a cell that was set
has a one bit drawn on it. -/
theorem drawRows_spec (x0 y0 : Nat) (byteOf : Nat → Byte) {n : Nat} (hn : y0 + n ≤ 32) (k : Canvas) :
    (∀ px py, px < 64 → Bitmap.cell (drawRows x0 y0 byteOf n k).gfx px py =
      xor (Bitmap.cell k.gfx px py) (spriteBit byteOf x0 y0 n px py)) ∧
    ((drawRows x0 y0 byteOf n k).hit = true ↔ k.hit = true ∨
      ∃ px py, px < 64 ∧ py < 32 ∧ spriteBit byteOf x0 y0 n px py = true ∧ Bitmap.cell k.gfx px py = true) := by
  induction n with
  | zero =>
    have h0 : ∀ py, ¬ (y0 ≤ py ∧ py < y0) := by omega
    constructor
    · intro px py _
      have : ¬ (y0 ≤ py ∧ py < y0 + 0 ∧ spriteColumn x0 px < 8) := by omega
      simp only [drawRows, List.range_zero, List.foldl_nil, spriteBit, this]
      simp
    · simp only [drawRows, List.range_zero, List.foldl_nil]
      constructor
      · exact .inl
      · rintro (h | ⟨px, py, -, -, h, -⟩)
        · exact h
        · simp only [spriteBit, Bool.and_eq_true, decide_eq_true_eq] at h; omega
  | succ n ih =>
    obtain ⟨ihc, ihh⟩ := ih (by omega)
    have hs : drawRows x0 y0 byteOf (n + 1) k = drawRow x0 (y0 + n) (byteOf n) (drawRows x0 y0 byteOf n k) := by
      simp [drawRows, List.range_succ]
    rw [hs]
    generalize drawRows x0 y0 byteOf n k = k' at ihc ihh
    obtain ⟨hc, hh⟩ := drawPixels_spec x0 (by omega : y0 + n < 32) (byteOf n) k' (Nat.le_refl 8)
    -- the new row adds exactly its own bits to the sprite
    have hbit : ∀ px py, spriteBit byteOf x0 y0 (n + 1) px py =
        xor (spriteBit byteOf x0 y0 n px py)
          (decide (py = y0 + n ∧ spriteColumn x0 px < 8) && (byteOf n).getLsbD (7 - spriteColumn x0 px)) := by
      intro px py
      by_cases e : py = y0 + n
      · subst e
        simp [spriteBit]
      · have e2 : (y0 ≤ py ∧ py < y0 + (n + 1) ∧ spriteColumn x0 px < 8) ↔
            (y0 ≤ py ∧ py < y0 + n ∧ spriteColumn x0 px < 8) := by omega
        simp only [spriteBit, e2]
        simp [e]
    constructor
    · intro px py hx
      rw [drawRow, hc px py hx, ihc px py hx, hbit, Bool.xor_assoc]
    · rw [drawRow, hh, ihh]
      -- the row's cells are untouched by the rows above it
      have hrow : ∀ px, px < 64 → Bitmap.cell k'.gfx px (y0 + n) = Bitmap.cell k.gfx px (y0 + n) := by
        intro px hx
        rw [ihc px _ hx]
        simp [spriteBit]
      constructor
      · rintro ((h | ⟨px, py, h1, h2, h3, h4⟩) | ⟨px, h1, h2, h3, h4⟩)
        · exact .inl h
        · refine .inr ⟨px, py, h1, h2, ?_, h4⟩
          rw [hbit, h3]
          have : py ≠ y0 + n := by
            simp only [spriteBit, Bool.and_eq_true, decide_eq_true_eq] at h3; omega
          simp [this]
        · refine .inr ⟨px, y0 + n, h1, by omega, ?_, by rw [← hrow px h1]; exact h4⟩
          rw [hbit]
          simp [spriteBit, h2, h3]
      · rintro (h | ⟨px, py, h1, h2, h3, h4⟩)
        · exact .inl (.inl h)
        · by_cases e : py = y0 + n
          · subst e
            rw [hbit] at h3
            simp [spriteBit] at h3
            exact .inr ⟨px, h1, h3.1, h3.2, by rw [hrow px h1]; exact h4⟩
          · refine .inl (.inr ⟨px, py, h1, h2, ?_, h4⟩)
            rw [hbit] at h3
            simpa [e] using h3

end Sys2Proof.Machine
end

