-- ==== Sys2Proof/Laws/Memory.lean ====
section
/-! SUPPORT. Memory: read after write, and the canonical form that every operation keeps. -/

namespace Sys2Proof.Machine

variable {d : Nat → Byte} {m : Memory}

theorem reduce_lt (a : Word) : reduce a < memSize := Nat.mod_lt _ (by decide)

theorem Memory.read_drop (d : Nat → Byte) (m : Memory) (a b : Nat) :
    Memory.read d (m.filter (fun c => c.1 != a)) b = if a = b then d b else Memory.read d m b := by
  induction m with
  | nil => simp [Memory.read]
  | cons c m ih =>
    obtain ⟨k, v⟩ := c
    by_cases hk : k = a
    · subst hk; by_cases hb : k = b
      · subst hb; simpa [Memory.read] using ih
      · simp [Memory.read, ih, hb]
    · by_cases hb : k = b
      · subst hb; simp [Memory.read, hk, Ne.symm hk]
      · simp [Memory.read, hk, ih, hb]

theorem Memory.read_insert (d : Nat → Byte) (m : Memory) (a b : Nat) (v : Byte)
    (hd : ∀ c ∈ m, c.1 ≠ a) :
    Memory.read d (Memory.insert a v m) b = if a = b then v else Memory.read d m b := by
  induction m with
  | nil => simp [Memory.insert, Memory.read]
  | cons c m ih =>
    obtain ⟨k, w⟩ := c
    have hk : k ≠ a := hd (k, w) (by simp)
    have ih := ih (fun c hc => hd c (by simp [hc]))
    by_cases hlt : a < k
    · simp [Memory.insert, hlt, Memory.read]
    · by_cases hb : k = b
      · subst hb; simp [Memory.insert, hlt, Memory.read, Ne.symm hk]
      · simp [Memory.insert, hlt, Memory.read, hb, ih]

/-- READ AFTER WRITE, in any memory: the written address gives the written byte, every other address is as before. -/
theorem Memory.read_write (d : Nat → Byte) (m : Memory) (a b : Nat) (v : Byte) :
    Memory.read d (Memory.write d m a v) b = if a = b then v else Memory.read d m b := by
  by_cases hv : v = d a
  · by_cases hb : a = b
    · subst hb; simp [Memory.write, hv, Memory.read_drop]
    · simp [Memory.write, hv, Memory.read_drop, hb]
  · have hd : ∀ c ∈ m.filter (fun c => c.1 != a), c.1 ≠ a := by
      intro c hc; simpa using (List.mem_filter.mp hc).2
    have h := Memory.read_insert d _ a b v hd
    by_cases hb : a = b
    · subst hb; simpa [Memory.write, hv] using h
    · simpa [Memory.write, hv, Memory.read_drop, hb] using h

theorem Memory.wfFrom_mono {lo lo' : Nat} (h : lo' ≤ lo) (hm : Memory.wfFrom d lo m = true) :
    Memory.wfFrom d lo' m = true := by
  cases m with
  | nil => rfl
  | cons c m =>
    obtain ⟨k, v⟩ := c
    simp only [Memory.wfFrom, Bool.and_eq_true, decide_eq_true_eq] at hm ⊢
    exact ⟨⟨⟨by omega, hm.1.1.2⟩, hm.1.2⟩, hm.2⟩

theorem Memory.wfFrom_drop (a : Nat) : ∀ {m : Memory} {lo : Nat}, Memory.wfFrom d lo m = true →
    Memory.wfFrom d lo (m.filter (fun c => c.1 != a)) = true
  | [], _, _ => rfl
  | (k, v) :: m, lo, hm => by
    have hm' := hm
    simp only [Memory.wfFrom, Bool.and_eq_true, decide_eq_true_eq] at hm
    have ih := Memory.wfFrom_drop a (m := m) (lo := k + 1) hm.2
    by_cases hk : k = a
    · have h2 := Memory.wfFrom_mono (lo' := lo) (by omega) ih
      simpa [hk] using h2
    · simp [hk, Memory.wfFrom, hm.1.1.1, hm.1.1.2, hm.1.2, ih]

theorem Memory.wfFrom_insert (a : Nat) (v : Byte) (ha : a < memSize) (hv : v ≠ d a) : ∀ {m : Memory} {lo : Nat},
    lo ≤ a → (∀ c ∈ m, c.1 ≠ a) → Memory.wfFrom d lo m = true → Memory.wfFrom d lo (Memory.insert a v m) = true
  | [], lo, hlo, _, _ => by simp [Memory.insert, Memory.wfFrom, hlo, ha, hv]
  | (k, w) :: m, lo, hlo, hd, hm => by
    have hk : k ≠ a := hd (k, w) (by simp)
    simp only [Memory.wfFrom, Bool.and_eq_true, decide_eq_true_eq] at hm
    by_cases hlt : a < k
    · simp [Memory.insert, hlt, Memory.wfFrom, hlo, ha, hv, hm.1.1.2, hm.1.2, hm.2]
    · have ih := Memory.wfFrom_insert a v ha hv (m := m) (lo := k + 1) (by omega) (fun c hc => hd c (by simp [hc])) hm.2
      simp [Memory.insert, hlt, Memory.wfFrom, hm.1.1.1, hm.1.1.2, hm.1.2, ih]

/-- Every write keeps the canonical form. -/
theorem Memory.wf_write (a : Nat) (v : Byte) (ha : a < memSize) (hm : Memory.wf d m = true) :
    Memory.wf d (Memory.write d m a v) = true := by
  have hdrop := Memory.wfFrom_drop a hm
  by_cases hv : v = d a
  · simpa [Memory.write, hv, Memory.wf] using hdrop
  · have hd : ∀ c ∈ m.filter (fun c => c.1 != a), c.1 ≠ a := by
      intro c hc; simpa using (List.mem_filter.mp hc).2
    simpa [Memory.write, hv, Memory.wf] using Memory.wfFrom_insert a v ha hv (Nat.zero_le a) hd hdrop

/-- Below its first address a canonical memory reads as reset left it. -/
theorem Memory.read_below : ∀ {m : Memory} {lo a : Nat}, Memory.wfFrom d lo m = true → a < lo → Memory.read d m a = d a
  | [], _, _, _, _ => rfl
  | (k, v) :: m, lo, a, hm, ha => by
    simp only [Memory.wfFrom, Bool.and_eq_true, decide_eq_true_eq] at hm
    have hne : k ≠ a := by omega
    simp [Memory.read, hne, Memory.read_below (m := m) hm.2 (by omega : a < k + 1)]

/-! The same at the level of the state. -/

@[simp] theorem State.load_store (s : State) (a b : Word) (v : Byte) :
    (s.store a v).load b = if reduce a = reduce b then v else s.load b := by
  simp [State.load, Memory.read_write]

theorem State.load_congr (s : State) {a b : Word} (h : reduce a = reduce b) : s.load a = s.load b := by
  simp [State.load, h]

theorem State.store_wf (s : State) (a : Word) (v : Byte) (h : Memory.wf (resetByte s.cfg) s.mem = true) :
    Memory.wf (resetByte (s.store a v).cfg) (s.store a v).mem = true := by
  simpa using Memory.wf_write (reduce a) v (reduce_lt a) h

/-- Reset's memory is canonical. -/
theorem State.initial_wf (cfg : Config) :
    Memory.wf (resetByte (State.initial cfg).cfg) (State.initial cfg).mem = true := rfl

end Sys2Proof.Machine
end

