-- ==== Sys2Proof/Laws/Ops.lean ====
section
/-! SUPPORT. The shared operations: one lemma for each, saying all it can do. -/

namespace Sys2Proof.Machine

open Sys2Proof.Safety

/-! Calls, returns, key skips. -/

theorem State.callTo_cases (s : State) (p : Word) :
    (s.cfg.stackDepth ≤ s.stack.length ∧ s.callTo p = s.raise .stackOverflow) ∨
    (s.stack.length < s.cfg.stackDepth ∧ s.callTo p = (s.push (s.pc + 2)).setPc p) := by
  by_cases h : s.cfg.stackDepth ≤ s.stack.length
  · exact .inl ⟨h, by simp [State.callTo, State.stackFull, h]⟩
  · exact .inr ⟨by omega, by simp [State.callTo, State.stackFull, h]⟩

theorem State.returnToCaller_cases (s : State) :
    (s.stack = [] ∧ s.returnToCaller = s.raise .stackUnderflow) ∨
    (∃ rest v, s.stack = rest ++ [v] ∧ s.returnToCaller = { s with stack := rest, pc := v }) := by
  rcases List.eq_nil_or_concat s.stack with h | ⟨rest, v, h⟩
  · exact .inl ⟨h, by simp [State.returnToCaller, h]⟩
  · refine .inr ⟨rest, v, by simpa using h, ?_⟩
    simp [State.returnToCaller, h]

theorem State.skipOnKey_cases (s : State) (x : Nibble) (down : Bool) :
    (0x0F < (s.reg x).toNat ∧ s.skipOnKey x down = s.raise .keyIndexOutOfRange) ∨
    ((s.reg x).toNat ≤ 0x0F ∧ s.skipOnKey x down = s.skip (s.key ((s.reg x).setWidth 4) == down)) := by
  by_cases h : 0x0F < (s.reg x).toNat
  · exact .inl ⟨h, by simp [State.skipOnKey, h]⟩
  · exact .inr ⟨by omega, by simp [State.skipOnKey, h]⟩

/-! Runs of bytes at `I + i`. -/

/-- How far an address lies above `I`, around the top of memory. -/
def State.offset (s : State) (a : Word) : Nat := (reduce a + memSize - reduce s.I) % memSize

theorem State.reduce_indexed (s : State) (i : Nat) : reduce (s.indexed i) = (reduce s.I + i) % memSize := by
  simp only [reduce, State.indexed, memSize, BitVec.toNat_add, BitVec.toNat_ofNat]
  omega

theorem State.reduce_indexed_eq_iff (s : State) (a : Word) {i : Nat} (hi : i < memSize) :
    reduce (s.indexed i) = reduce a ↔ s.offset a = i := by
  have h1 := reduce_lt a
  have h2 := reduce_lt s.I
  rw [State.reduce_indexed]
  simp only [State.offset, memSize] at *
  omega

theorem State.offset_indexed (s : State) {i : Nat} (hi : i < memSize) : s.offset (s.indexed i) = i :=
  (s.reduce_indexed_eq_iff (s.indexed i) hi).mp rfl

theorem State.storeRun_succ (s : State) (f : Nat → Byte) (n : Nat) :
    s.storeRun f (n + 1) = (s.storeRun f n).store (s.indexed n) (f n) := by
  simp [State.storeRun, List.range_succ]

theorem State.storeRun_eq (s : State) (f : Nat → Byte) (n : Nat) :
    s.storeRun f n = { s with mem := (s.storeRun f n).mem } := by
  induction n with
  | zero => rfl
  | succ n ih => rw [State.storeRun_succ, ih]; rfl

@[simp] theorem State.storeRun_V (s : State) (f : Nat → Byte) (n : Nat) : (s.storeRun f n).V = s.V := by
  rw [State.storeRun_eq]
@[simp] theorem State.storeRun_I (s : State) (f : Nat → Byte) (n : Nat) : (s.storeRun f n).I = s.I := by
  rw [State.storeRun_eq]
@[simp] theorem State.storeRun_pc (s : State) (f : Nat → Byte) (n : Nat) : (s.storeRun f n).pc = s.pc := by
  rw [State.storeRun_eq]
@[simp] theorem State.storeRun_stack (s : State) (f : Nat → Byte) (n : Nat) : (s.storeRun f n).stack = s.stack := by
  rw [State.storeRun_eq]
@[simp] theorem State.storeRun_DT (s : State) (f : Nat → Byte) (n : Nat) : (s.storeRun f n).DT = s.DT := by
  rw [State.storeRun_eq]
@[simp] theorem State.storeRun_ST (s : State) (f : Nat → Byte) (n : Nat) : (s.storeRun f n).ST = s.ST := by
  rw [State.storeRun_eq]
@[simp] theorem State.storeRun_gfx (s : State) (f : Nat → Byte) (n : Nat) : (s.storeRun f n).gfx = s.gfx := by
  rw [State.storeRun_eq]
@[simp] theorem State.storeRun_keys (s : State) (f : Nat → Byte) (n : Nat) : (s.storeRun f n).keys = s.keys := by
  rw [State.storeRun_eq]
@[simp] theorem State.storeRun_run (s : State) (f : Nat → Byte) (n : Nat) : (s.storeRun f n).run = s.run := by
  rw [State.storeRun_eq]
@[simp] theorem State.storeRun_cfg (s : State) (f : Nat → Byte) (n : Nat) : (s.storeRun f n).cfg = s.cfg := by
  rw [State.storeRun_eq]
@[simp] theorem State.storeRun_rnd (s : State) (f : Nat → Byte) (n : Nat) : (s.storeRun f n).rnd = s.rnd := by
  rw [State.storeRun_eq]
@[simp] theorem State.storeRun_draws (s : State) (f : Nat → Byte) (n : Nat) : (s.storeRun f n).draws = s.draws := by
  rw [State.storeRun_eq]
@[simp] theorem State.storeRun_inbox (s : State) (f : Nat → Byte) (n : Nat) : (s.storeRun f n).inbox = s.inbox := by
  rw [State.storeRun_eq]
@[simp] theorem State.storeRun_reg (s : State) (f : Nat → Byte) (n : Nat) (r : Nibble) : (s.storeRun f n).reg r = s.reg r := by
  rw [State.storeRun_eq]; rfl
@[simp] theorem State.storeRun_cell (s : State) (f : Nat → Byte) (n : Nat) (px py : Nat) : (s.storeRun f n).cell px py = s.cell px py := by
  rw [State.storeRun_eq]; rfl
@[simp] theorem State.storeRun_key (s : State) (f : Nat → Byte) (n : Nat) (k : Nibble) : (s.storeRun f n).key k = s.key k := by
  rw [State.storeRun_eq]; rfl

/-- What memory reads after a run of stores: the run's bytes from `I` up, everything else as before. -/
theorem State.load_storeRun (s : State) (f : Nat → Byte) {n : Nat} (hn : n ≤ memSize) (a : Word) :
    (s.storeRun f n).load a = if s.offset a < n then f (s.offset a) else s.load a := by
  induction n with
  | zero => simp [State.storeRun]
  | succ n ih =>
    rw [State.storeRun_succ, State.load_store, ih (by omega)]
    simp only [s.reduce_indexed_eq_iff a (by omega : n < memSize)]
    by_cases h : s.offset a = n
    · simp [h]
    · have : s.offset a < n + 1 ↔ s.offset a < n := by omega
      simp [h, this]

theorem State.storeRun_wf (s : State) (f : Nat → Byte) (n : Nat) (h : Memory.wf (resetByte s.cfg) s.mem = true) :
    Memory.wf (resetByte s.cfg) (s.storeRun f n).mem = true := by
  induction n with
  | zero => simpa [State.storeRun] using h
  | succ n ih =>
    rw [State.storeRun_succ]
    simpa using Memory.wf_write (reduce (s.indexed n)) (f n) (reduce_lt _) ih

theorem State.loadRun_succ (s : State) (n : Nat) :
    s.loadRun (n + 1) = (s.loadRun n).setReg (BitVec.ofNat 4 n) (s.load (s.indexed n)) := by
  simp [State.loadRun, List.range_succ]

theorem State.loadRun_eq (s : State) (n : Nat) : s.loadRun n = { s with V := (s.loadRun n).V } := by
  induction n with
  | zero => rfl
  | succ n ih => rw [State.loadRun_succ, ih]; rfl

@[simp] theorem State.loadRun_I (s : State) (n : Nat) : (s.loadRun n).I = s.I := by
  rw [State.loadRun_eq]
@[simp] theorem State.loadRun_pc (s : State) (n : Nat) : (s.loadRun n).pc = s.pc := by
  rw [State.loadRun_eq]
@[simp] theorem State.loadRun_stack (s : State) (n : Nat) : (s.loadRun n).stack = s.stack := by
  rw [State.loadRun_eq]
@[simp] theorem State.loadRun_DT (s : State) (n : Nat) : (s.loadRun n).DT = s.DT := by
  rw [State.loadRun_eq]
@[simp] theorem State.loadRun_ST (s : State) (n : Nat) : (s.loadRun n).ST = s.ST := by
  rw [State.loadRun_eq]
@[simp] theorem State.loadRun_gfx (s : State) (n : Nat) : (s.loadRun n).gfx = s.gfx := by
  rw [State.loadRun_eq]
@[simp] theorem State.loadRun_keys (s : State) (n : Nat) : (s.loadRun n).keys = s.keys := by
  rw [State.loadRun_eq]
@[simp] theorem State.loadRun_run (s : State) (n : Nat) : (s.loadRun n).run = s.run := by
  rw [State.loadRun_eq]
@[simp] theorem State.loadRun_cfg (s : State) (n : Nat) : (s.loadRun n).cfg = s.cfg := by
  rw [State.loadRun_eq]
@[simp] theorem State.loadRun_rnd (s : State) (n : Nat) : (s.loadRun n).rnd = s.rnd := by
  rw [State.loadRun_eq]
@[simp] theorem State.loadRun_draws (s : State) (n : Nat) : (s.loadRun n).draws = s.draws := by
  rw [State.loadRun_eq]
@[simp] theorem State.loadRun_inbox (s : State) (n : Nat) : (s.loadRun n).inbox = s.inbox := by
  rw [State.loadRun_eq]
@[simp] theorem State.loadRun_mem (s : State) (n : Nat) : (s.loadRun n).mem = s.mem := by
  rw [State.loadRun_eq]
@[simp] theorem State.loadRun_load (s : State) (n : Nat) (a : Word) : (s.loadRun n).load a = s.load a := by
  rw [State.loadRun_eq]; rfl
@[simp] theorem State.loadRun_cell (s : State) (n : Nat) (px py : Nat) : (s.loadRun n).cell px py = s.cell px py := by
  rw [State.loadRun_eq]; rfl
@[simp] theorem State.loadRun_key (s : State) (n : Nat) (k : Nibble) : (s.loadRun n).key k = s.key k := by
  rw [State.loadRun_eq]; rfl

/-- What the registers hold after a run of loads. -/
theorem State.reg_loadRun (s : State) {n : Nat} (hn : n ≤ 16) (r : Nibble) :
    (s.loadRun n).reg r = if r.toNat < n then s.load (s.indexed r.toNat) else s.reg r := by
  induction n with
  | zero => simp [State.loadRun]
  | succ n ih =>
    rw [State.loadRun_succ, State.reg_setReg, ih (by omega)]
    have hr := r.isLt
    have e : BitVec.ofNat 4 n = r ↔ r.toNat = n := by
      rw [← BitVec.toNat_inj, BitVec.toNat_ofNat, Nat.mod_eq_of_lt (by omega)]; omega
    by_cases h : r.toNat = n
    · simp [e, h]
    · have : r.toNat < n + 1 ↔ r.toNat < n := by omega
      simp [e, h, this]

/-! Commands. -/

/-- All that `Step(rnd)` can do. -/
theorem State.stepCommand_cases (s : State) (rnd : Byte) :
    (s.run = .running ∧ ∃ i, decode s.fetchWord = .ok i ∧ s.stepCommand rnd = exec i (s.withRnd rnd)) ∨
    (s.run = .running ∧ (∃ e, decode s.fetchWord = .error e) ∧
      s.stepCommand rnd = .next ((s.withRnd rnd).raise .illegalInstruction)) ∨
    (s.run ≠ .running ∧ s.stepCommand rnd = .next s) := by
  rcases hr : s.run with _ | t | ⟨c, w, f⟩
  · rcases hd : decode s.fetchWord with e | i
    · exact .inr (.inl ⟨rfl, ⟨e, rfl⟩, by simp [State.stepCommand, hr, State.runInstruction, hd]⟩)
    · exact .inl ⟨rfl, i, rfl, by simp [State.stepCommand, hr, State.runInstruction, hd]⟩
  · exact .inr (.inr ⟨by simp, by simp [State.stepCommand, hr]⟩)
  · exact .inr (.inr ⟨by simp, by simp [State.stepCommand, hr]⟩)

/-- All that a step can do: the environment's next command, spelled out or free. -/
theorem step_cases (s : State) :
    (∃ c rest, s.inbox = c :: rest ∧ step s = { s with inbox := rest }.command c) ∨
    (s.inbox = [] ∧ step s = { s with draws := s.draws + 1 }.command (Config.freeCommand s.draws)) := by
  rcases hi : s.inbox with _ | ⟨c, rest⟩
  · exact .inr ⟨rfl, by simp [step, hi, State.freeTurn]⟩
  · exact .inl ⟨c, rest, rfl, by simp [step, hi]⟩

/-- All that a KeyEvent can do: set the key's bit, and end a wait on a new key-down. -/
theorem State.keyEvent_cases (s : State) (k : Nibble) (down : Bool) :
    (∃ t, s.run = .awaitingKey t ∧ down = true ∧ s.key k = false ∧
      s.keyEvent k down = { (s.setKey k down).setReg t (k.setWidth 8) with run := .running }) ∨
    (((∀ t, s.run ≠ .awaitingKey t) ∨ down = false ∨ s.key k = true) ∧ s.keyEvent k down = s.setKey k down) := by
  rcases hr : s.run with _ | t | ⟨c, w, f⟩
  · exact .inr ⟨.inl (by simp), by simp [State.keyEvent, hr]⟩
  · cases down <;> rcases hk : s.key k <;> simp [State.keyEvent, hr, hk]
  · exact .inr ⟨.inl (by simp), by simp [State.keyEvent, hr]⟩

theorem countDown_toNat (v : Byte) : (countDown v).toNat = v.toNat - 1 := by
  unfold countDown
  split
  · next h => have := v.isLt; rw [BitVec.toNat_sub]; simp; omega
  · omega

/-! The environment's side: no command reads or writes `draws` and `inbox` (spec/10_state.md R47). -/

/-- `s` with another environment. -/
def State.withEnvironment (s : State) (d : Nat) (l : List Command) : State := { s with draws := d, inbox := l }

theorem State.storeRun_withEnvironment (s : State) (d : Nat) (l : List Command) (f : Nat → Byte) (n : Nat) :
    (s.withEnvironment d l).storeRun f n = (s.storeRun f n).withEnvironment d l := by
  induction n with
  | zero => rfl
  | succ n ih => rw [State.storeRun_succ, State.storeRun_succ, ih]; rfl

theorem State.loadRun_withEnvironment (s : State) (d : Nat) (l : List Command) (n : Nat) :
    (s.withEnvironment d l).loadRun n = (s.loadRun n).withEnvironment d l := by
  induction n with
  | zero => rfl
  | succ n ih => rw [State.loadRun_succ, State.loadRun_succ, ih]; rfl

/-- An instruction does the same in every environment. -/
theorem exec_withEnvironment (i : Instr) (s t : State) (d : Nat) (l : List Command)
    (h : exec i s = .next t) : exec i (s.withEnvironment d l) = .next (t.withEnvironment d l) := by
  cases i
  case readRegisterAsBCD x => cases h; exact congrArg (fun s => Host.Outcome.next s.advance) (State.storeRun_withEnvironment s d l _ _)
  case dumpRegisters x => cases h; exact congrArg (fun s => Host.Outcome.next s.advance) (State.storeRun_withEnvironment s d l _ _)
  case fillRegisters x => cases h; exact congrArg (fun s => Host.Outcome.next s.advance) (State.loadRun_withEnvironment s d l _)
  case returnFromSubroutine =>
    cases h
    show Host.Outcome.next _ = _
    congr 1
    simp only [State.returnToCaller, State.withEnvironment]
    cases s.stack.getLast? <;> rfl
  case call nnn | callSubroutine nnn =>
    cases h
    show Host.Outcome.next _ = _
    congr 1
    cases hk : s.stackFull
    · simp [State.callTo, show (s.withEnvironment d l).stackFull = s.stackFull from rfl, hk]; rfl
    · simp [State.callTo, show (s.withEnvironment d l).stackFull = s.stackFull from rfl, hk]; rfl
  case skipIfKeyDown x | skipIfKeyUp x =>
    cases h
    show Host.Outcome.next _ = _
    congr 1
    simp only [State.skipOnKey]
    by_cases hk : 0x0F < (s.reg x).toNat
    · rw [if_pos hk, if_pos (show 0x0F < ((s.withEnvironment d l).reg x).toNat from hk)]; rfl
    · rw [if_neg hk, if_neg (show ¬ 0x0F < ((s.withEnvironment d l).reg x).toNat from hk)]; rfl
  case drawSprite x y n =>
    cases h
    show Host.Outcome.next (ite _ _ _) = _
    congr 1
    by_cases hk : spriteTooLow (s.reg y).toNat n = true
    · rw [if_pos (show spriteTooLow ((s.withEnvironment d l).reg y).toNat n = true from hk), if_pos hk]; rfl
    · rw [if_neg (show ¬ spriteTooLow ((s.withEnvironment d l).reg y).toNat n = true from hk), if_neg hk]; rfl
  all_goals (cases h; rfl)

/-- A command does the same in every environment, and leaves the environment as it was. -/
theorem State.command_withEnvironment (s t : State) (c : Command) (d : Nat) (l : List Command)
    (h : s.command c = .next t) : (s.withEnvironment d l).command c = .next (t.withEnvironment d l) := by
  cases c with
  | step rnd =>
    change s.stepCommand rnd = _ at h
    change (s.withEnvironment d l).stepCommand rnd = _
    rcases hr : s.run with _ | a | ⟨a, b, c⟩
    · simp only [State.stepCommand, hr, State.runInstruction, show (s.withEnvironment d l).run = s.run from rfl,
        show ((s.withEnvironment d l).withRnd rnd).fetchWord = s.fetchWord from rfl,
        show (s.withRnd rnd).fetchWord = s.fetchWord from rfl] at h ⊢
      cases hd : decode s.fetchWord with
      | error e => rw [hd] at h; cases h; rfl
      | ok i => rw [hd] at h; exact exec_withEnvironment i (s.withRnd rnd) t d l h
    · simp only [State.stepCommand, hr, show (s.withEnvironment d l).run = s.run from rfl] at h ⊢; cases h; rfl
    · simp only [State.stepCommand, hr, show (s.withEnvironment d l).run = s.run from rfl] at h ⊢; cases h; rfl
  | keyEvent k down =>
    cases h
    show Host.Outcome.next _ = _
    congr 1
    rcases hr : s.run with _ | a | ⟨a, b, c⟩ <;> simp only [State.keyEvent, hr, show (s.withEnvironment d l).run = s.run from rfl]
    · rfl
    · by_cases hk : (down && !s.key k) = true
      · rw [if_pos hk, if_pos (show (down && !(s.withEnvironment d l).key k) = true from hk)]; rfl
      · rw [if_neg hk, if_neg (show ¬ (down && !(s.withEnvironment d l).key k) = true from hk)]; rfl
    · rfl
  | _ => cases h; rfl

/-- One step of a run. -/
theorem run_succ_of_step (n : Nat) {s t : State} (h : step s = .next t) :
    Host.Core.run Sys2Proof.core (n + 1) s = Host.Core.run Sys2Proof.core n t := by
  simp only [Host.Core.run]
  rw [show Sys2Proof.core.step s = .next t from h]

end Sys2Proof.Machine
end

