-- ==== Sys2Proof/Laws/PerInstr.lean ====
section
/-! SUPPORT. Per-instruction laws over the syntax. Family FixedBits: under the mask that spec/opcode_table.json gives its
row, an instruction's word is the row's match value, whatever the operands. -/

namespace Sys2Proof.Laws

/-- Column "mask" of spec/opcode_table.json. -/
def tableMask : Instr → Word
  | .clearDisplay => 0xFFFF#16
  | .returnFromSubroutine => 0xFFFF#16
  | .call _ => 0xF000#16
  | .jump _ => 0xF000#16
  | .callSubroutine _ => 0xF000#16
  | .skipIfEqualImmediate _ _ => 0xF000#16
  | .skipIfNotEqualImmediate _ _ => 0xF000#16
  | .skipIfRegistersEqual _ _ => 0xF00F#16
  | .setImmediate _ _ => 0xF000#16
  | .addImmediate _ _ => 0xF000#16
  | .copy _ _ => 0xF00F#16
  | .or _ _ => 0xF00F#16
  | .and _ _ => 0xF00F#16
  | .xor _ _ => 0xF00F#16
  | .addWithCarry _ _ => 0xF00F#16
  | .subtractWithBorrow _ _ => 0xF00F#16
  | .shiftRight _ _ => 0xF00F#16
  | .reverseSubtract _ _ => 0xF00F#16
  | .shiftLeft _ _ => 0xF00F#16
  | .skipIfRegistersNotEqual _ _ => 0xF00F#16
  | .setIndex _ => 0xF000#16
  | .jumpPlusV0 _ => 0xF000#16
  | .randomMask _ _ => 0xF000#16
  | .drawSprite _ _ _ => 0xF000#16
  | .skipIfKeyDown _ => 0xF0FF#16
  | .skipIfKeyUp _ => 0xF0FF#16
  | .readDelayTimer _ => 0xF0FF#16
  | .blockOnKeyPress _ => 0xF0FF#16
  | .setDelayTimer _ => 0xF0FF#16
  | .setSoundTimer _ => 0xF0FF#16
  | .addToIndexRegister _ => 0xF0FF#16
  | .useSprite _ => 0xF0FF#16
  | .readRegisterAsBCD _ => 0xF0FF#16
  | .dumpRegisters _ => 0xF0FF#16
  | .fillRegisters _ => 0xF0FF#16

/-- Column "match" of spec/opcode_table.json. -/
def tableMatch : Instr → Word
  | .clearDisplay => 0x00E0#16
  | .returnFromSubroutine => 0x00EE#16
  | .call _ => 0x0000#16
  | .jump _ => 0x1000#16
  | .callSubroutine _ => 0x2000#16
  | .skipIfEqualImmediate _ _ => 0x3000#16
  | .skipIfNotEqualImmediate _ _ => 0x4000#16
  | .skipIfRegistersEqual _ _ => 0x5000#16
  | .setImmediate _ _ => 0x6000#16
  | .addImmediate _ _ => 0x7000#16
  | .copy _ _ => 0x8000#16
  | .or _ _ => 0x8001#16
  | .and _ _ => 0x8002#16
  | .xor _ _ => 0x8003#16
  | .addWithCarry _ _ => 0x8004#16
  | .subtractWithBorrow _ _ => 0x8005#16
  | .shiftRight _ _ => 0x8006#16
  | .reverseSubtract _ _ => 0x8007#16
  | .shiftLeft _ _ => 0x800E#16
  | .skipIfRegistersNotEqual _ _ => 0x9000#16
  | .setIndex _ => 0xA000#16
  | .jumpPlusV0 _ => 0xB000#16
  | .randomMask _ _ => 0xC000#16
  | .drawSprite _ _ _ => 0xD000#16
  | .skipIfKeyDown _ => 0xE09E#16
  | .skipIfKeyUp _ => 0xE0A1#16
  | .readDelayTimer _ => 0xF007#16
  | .blockOnKeyPress _ => 0xF00A#16
  | .setDelayTimer _ => 0xF015#16
  | .setSoundTimer _ => 0xF018#16
  | .addToIndexRegister _ => 0xF01E#16
  | .useSprite _ => 0xF029#16
  | .readRegisterAsBCD _ => 0xF033#16
  | .dumpRegisters _ => 0xF055#16
  | .fillRegisters _ => 0xF065#16

def FixedBits.Statement (i : Instr) : Prop := encode i &&& tableMask i = tableMatch i

/-- An AND of two concatenations is the concatenation of the ANDs. -/
theorem append_and {m n : Nat} (a c : BitVec m) (b d : BitVec n) : (a ++ b) &&& (c ++ d) = (a &&& c) ++ (b &&& d) := by
  ext i hi
  simp only [BitVec.getElem_and, BitVec.getElem_append]
  split <;> rfl

theorem keep4 (a : Nibble) : a &&& 0xF#4 = a := BitVec.and_allOnes

theorem keep8 (a : Byte) : a &&& 0xFF#8 = a := BitVec.and_allOnes

theorem masked_formatNNN (op : Nibble) (nnn : Addr12) : (op ++ nnn) &&& 0xF000#16 = op ++ 0#12 := by
  show (op ++ nnn) &&& (0xF#4 ++ 0#12) = _
  rw [append_and, keep4, BitVec.and_zero]

theorem masked_formatXKK (op x : Nibble) (kk : Byte) : (op ++ x ++ kk) &&& 0xF000#16 = op ++ 0#4 ++ 0#8 := by
  show (op ++ x ++ kk) &&& ((0xF#4 ++ 0#4) ++ 0#8) = _
  rw [append_and, append_and, keep4, BitVec.and_zero, BitVec.and_zero]

theorem masked_formatXFF (op x : Nibble) (func : Byte) : (op ++ x ++ func) &&& 0xF0FF#16 = op ++ 0#4 ++ func := by
  show (op ++ x ++ func) &&& ((0xF#4 ++ 0#4) ++ 0xFF#8) = _
  rw [append_and, append_and, keep4, BitVec.and_zero, keep8]

theorem masked_formatXYN (op x y n : Nibble) : (op ++ x ++ y ++ n) &&& 0xF00F#16 = op ++ 0#4 ++ 0#4 ++ n := by
  show (op ++ x ++ y ++ n) &&& (((0xF#4 ++ 0#4) ++ 0#4) ++ 0xF#4) = op ++ 0#4 ++ 0#4 ++ n
  rw [append_and (op ++ x ++ y) ((0xF#4 ++ 0#4) ++ 0#4) n 0xF#4, append_and, append_and, keep4, BitVec.and_zero, BitVec.and_zero, keep4]

theorem masked_formatXY (op x y n : Nibble) : (op ++ x ++ y ++ n) &&& 0xF000#16 = op ++ 0#4 ++ 0#4 ++ 0#4 := by
  show (op ++ x ++ y ++ n) &&& (((0xF#4 ++ 0#4) ++ 0#4) ++ 0#4) = op ++ 0#4 ++ 0#4 ++ 0#4
  rw [append_and (op ++ x ++ y) ((0xF#4 ++ 0#4) ++ 0#4) n 0#4, append_and, append_and, keep4, BitVec.and_zero, BitVec.and_zero, BitVec.and_zero]

theorem FixedBits.clearDisplay : FixedBits.Statement (.clearDisplay) := rfl
theorem FixedBits.returnFromSubroutine : FixedBits.Statement (.returnFromSubroutine) := rfl
theorem FixedBits.call (nnn : Addr12) : FixedBits.Statement (.call nnn) := masked_formatNNN _ nnn
theorem FixedBits.jump (nnn : Addr12) : FixedBits.Statement (.jump nnn) := masked_formatNNN _ nnn
theorem FixedBits.callSubroutine (nnn : Addr12) : FixedBits.Statement (.callSubroutine nnn) := masked_formatNNN _ nnn
theorem FixedBits.skipIfEqualImmediate (x : Nibble) (kk : Byte) : FixedBits.Statement (.skipIfEqualImmediate x kk) := masked_formatXKK _ x kk
theorem FixedBits.skipIfNotEqualImmediate (x : Nibble) (kk : Byte) : FixedBits.Statement (.skipIfNotEqualImmediate x kk) := masked_formatXKK _ x kk
theorem FixedBits.skipIfRegistersEqual (x : Nibble) (y : Nibble) : FixedBits.Statement (.skipIfRegistersEqual x y) := masked_formatXYN _ x y _
theorem FixedBits.setImmediate (x : Nibble) (kk : Byte) : FixedBits.Statement (.setImmediate x kk) := masked_formatXKK _ x kk
theorem FixedBits.addImmediate (x : Nibble) (kk : Byte) : FixedBits.Statement (.addImmediate x kk) := masked_formatXKK _ x kk
theorem FixedBits.copy (x : Nibble) (y : Nibble) : FixedBits.Statement (.copy x y) := masked_formatXYN _ x y _
theorem FixedBits.or (x : Nibble) (y : Nibble) : FixedBits.Statement (.or x y) := masked_formatXYN _ x y _
theorem FixedBits.and (x : Nibble) (y : Nibble) : FixedBits.Statement (.and x y) := masked_formatXYN _ x y _
theorem FixedBits.xor (x : Nibble) (y : Nibble) : FixedBits.Statement (.xor x y) := masked_formatXYN _ x y _
theorem FixedBits.addWithCarry (x : Nibble) (y : Nibble) : FixedBits.Statement (.addWithCarry x y) := masked_formatXYN _ x y _
theorem FixedBits.subtractWithBorrow (x : Nibble) (y : Nibble) : FixedBits.Statement (.subtractWithBorrow x y) := masked_formatXYN _ x y _
theorem FixedBits.shiftRight (x : Nibble) (y : Nibble) : FixedBits.Statement (.shiftRight x y) := masked_formatXYN _ x y _
theorem FixedBits.reverseSubtract (x : Nibble) (y : Nibble) : FixedBits.Statement (.reverseSubtract x y) := masked_formatXYN _ x y _
theorem FixedBits.shiftLeft (x : Nibble) (y : Nibble) : FixedBits.Statement (.shiftLeft x y) := masked_formatXYN _ x y _
theorem FixedBits.skipIfRegistersNotEqual (x : Nibble) (y : Nibble) : FixedBits.Statement (.skipIfRegistersNotEqual x y) := masked_formatXYN _ x y _
theorem FixedBits.setIndex (nnn : Addr12) : FixedBits.Statement (.setIndex nnn) := masked_formatNNN _ nnn
theorem FixedBits.jumpPlusV0 (nnn : Addr12) : FixedBits.Statement (.jumpPlusV0 nnn) := masked_formatNNN _ nnn
theorem FixedBits.randomMask (x : Nibble) (kk : Byte) : FixedBits.Statement (.randomMask x kk) := masked_formatXKK _ x kk
theorem FixedBits.drawSprite (x : Nibble) (y : Nibble) (n : Nibble) : FixedBits.Statement (.drawSprite x y n) := masked_formatXY _ x y n
theorem FixedBits.skipIfKeyDown (x : Nibble) : FixedBits.Statement (.skipIfKeyDown x) := masked_formatXFF _ x _
theorem FixedBits.skipIfKeyUp (x : Nibble) : FixedBits.Statement (.skipIfKeyUp x) := masked_formatXFF _ x _
theorem FixedBits.readDelayTimer (x : Nibble) : FixedBits.Statement (.readDelayTimer x) := masked_formatXFF _ x _
theorem FixedBits.blockOnKeyPress (x : Nibble) : FixedBits.Statement (.blockOnKeyPress x) := masked_formatXFF _ x _
theorem FixedBits.setDelayTimer (x : Nibble) : FixedBits.Statement (.setDelayTimer x) := masked_formatXFF _ x _
theorem FixedBits.setSoundTimer (x : Nibble) : FixedBits.Statement (.setSoundTimer x) := masked_formatXFF _ x _
theorem FixedBits.addToIndexRegister (x : Nibble) : FixedBits.Statement (.addToIndexRegister x) := masked_formatXFF _ x _
theorem FixedBits.useSprite (x : Nibble) : FixedBits.Statement (.useSprite x) := masked_formatXFF _ x _
theorem FixedBits.readRegisterAsBCD (x : Nibble) : FixedBits.Statement (.readRegisterAsBCD x) := masked_formatXFF _ x _
theorem FixedBits.dumpRegisters (x : Nibble) : FixedBits.Statement (.dumpRegisters x) := masked_formatXFF _ x _
theorem FixedBits.fillRegisters (x : Nibble) : FixedBits.Statement (.fillRegisters x) := masked_formatXFF _ x _

end Sys2Proof.Laws
end

