-- ==== Sys2Proof/Tests/Slice0.lean ====
section
/-! SUPPORT. Tests of one step each, their expected values taken from spec/95_test_vectors.md (the id is named) or worked from
the cited rule, and for every statement with hypotheses a witness that meets them. -/

namespace Sys2Proof.Tests

open Sys2Proof.Machine Sys2Proof.Safety

/-- The machine after reset with one instruction word at 0x200. -/
def vm (w : Nat) : State := State.reset.withFetchWord 16 w

def set (s : State) (r : Nibble) (v : Byte) : State := s.setReg r v

def loads (s : State) : List (Word × Byte) → State
  | [] => s
  | (a, b) :: more => loads (s.store a b) more

/-- What a view shows after one step; nothing if the model stopped. -/
def after {α : Type} (s : State) (view : State → α) : Option α :=
  match step s with
  | .next t => some (view t)
  | .fault _ => none
  | .refused _ => none

/-- What a view shows after one command. -/
def afterCommand {α : Type} (s : State) (c : Command) (view : State → α) : Option α :=
  match s.command c with
  | .next t => some (view t)
  | .fault _ => none
  | .refused _ => none

/-! ## Decoding: every constructor, by a word written out from R96 (vectors D-1 to D-26) -/

theorem test_decode_fixed : decode 0x00E0 = .ok .clearDisplay ∧ decode 0x00EE = .ok .returnFromSubroutine := by decide

theorem test_decode_nnn : decode 0x0FFF = .ok (.call 0xFFF) ∧ decode 0x0000 = .ok (.call 0x000) ∧
    decode 0x1ABC = .ok (.jump 0xABC) ∧ decode 0x2ABC = .ok (.callSubroutine 0xABC) ∧
    decode 0xA123 = .ok (.setIndex 0x123) ∧ decode 0xB123 = .ok (.jumpPlusV0 0x123) := by decide

theorem test_decode_xkk : decode 0x3A7F = .ok (.skipIfEqualImmediate 0xA 0x7F) ∧
    decode 0x4A7F = .ok (.skipIfNotEqualImmediate 0xA 0x7F) ∧ decode 0x6F2C = .ok (.setImmediate 0xF 0x2C) ∧
    decode 0x7A01 = .ok (.addImmediate 0xA 0x01) ∧ decode 0xC3FF = .ok (.randomMask 0x3 0xFF) := by decide

theorem test_decode_alu : decode 0x8AB0 = .ok (.copy 0xA 0xB) ∧ decode 0x8AB1 = .ok (.or 0xA 0xB) ∧
    decode 0x8AB2 = .ok (.and 0xA 0xB) ∧ decode 0x8AB3 = .ok (.xor 0xA 0xB) ∧
    decode 0x8AB4 = .ok (.addWithCarry 0xA 0xB) ∧ decode 0x8AB5 = .ok (.subtractWithBorrow 0xA 0xB) ∧
    decode 0x8AB6 = .ok (.shiftRight 0xA 0xB) ∧ decode 0x8AB7 = .ok (.reverseSubtract 0xA 0xB) ∧
    decode 0x8ABE = .ok (.shiftLeft 0xA 0xB) := by decide

theorem test_decode_xyn : decode 0x5AB0 = .ok (.skipIfRegistersEqual 0xA 0xB) ∧
    decode 0x9AB0 = .ok (.skipIfRegistersNotEqual 0xA 0xB) ∧ decode 0xD010 = .ok (.drawSprite 0x0 0x1 0) ∧
    decode 0xD12F = .ok (.drawSprite 0x1 0x2 0xF) := by decide

theorem test_decode_keys_and_fx : decode 0xE59E = .ok (.skipIfKeyDown 0x5) ∧ decode 0xE5A1 = .ok (.skipIfKeyUp 0x5) ∧
    decode 0xF507 = .ok (.readDelayTimer 0x5) ∧ decode 0xF50A = .ok (.blockOnKeyPress 0x5) ∧
    decode 0xF515 = .ok (.setDelayTimer 0x5) ∧ decode 0xF518 = .ok (.setSoundTimer 0x5) ∧
    decode 0xF51E = .ok (.addToIndexRegister 0x5) ∧ decode 0xF529 = .ok (.useSprite 0x5) ∧
    decode 0xF533 = .ok (.readRegisterAsBCD 0x5) ∧ decode 0xF555 = .ok (.dumpRegisters 0x5) ∧
    decode 0xF565 = .ok (.fillRegisters 0x5) := by decide

/-- D-11, D-16, D-18, D-24, D-26. -/
theorem test_decode_illegal : decode 0x5AB1 = .error .illegalWord ∧ decode 0x5ABF = .error .illegalWord ∧
    decode 0x8AB8 = .error .illegalWord ∧ decode 0x8ABD = .error .illegalWord ∧
    decode 0x8ABF = .error .illegalWord ∧ decode 0x9AB1 = .error .illegalWord ∧
    decode 0xE500 = .error .illegalWord := by decide

theorem test_decode_illegal_fx : decode 0xE59F = .error .illegalWord ∧ decode 0xE5A0 = .error .illegalWord ∧
    decode 0xF500 = .error .illegalWord ∧ decode 0xF508 = .error .illegalWord ∧
    decode 0xF530 = .error .illegalWord ∧ decode 0xF575 = .error .illegalWord ∧
    decode 0xFFFF = .error .illegalWord := by decide

/-- The high byte lies first (R71); one byte is no instruction. -/
theorem test_decodeBytes : decodeBytes [0x8A, 0xB4, 0x55] = .ok (.addWithCarry 0xA 0xB, [0x55]) ∧
    decodeBytes [0x8A] = .error .truncated := by decide

theorem test_decodeTableWord : decodeTableWord 16 0xFA33 = some (.readRegisterAsBCD 0xA) ∧
    decodeTableWord 16 0x5AB1 = none := by decide

/-- R99: 0 = ClearDisplay .. 34 = FillRegisters; 63 for a DecodeError. -/
theorem test_decoderOutput : (decoderOutput 0x00E0).tag = 0 ∧ (decoderOutput 0xF565).tag = 34 ∧
    decoderOutput 0x5AB1 = { tag := 63, valid := false, x := 0xA, y := 0xB, n := 1, kk := 0xB1, nnn := 0xAB1 } := by decide

/-- The examples of R103. -/
theorem test_asm : (Instr.addWithCarry 0xA 0xB).asm = "AddWithCarry VA, VB" ∧ (Instr.jump 0x208).asm = "Jump 0x208" ∧
    (Instr.drawSprite 0x0 0x1 5).asm = "DrawSprite V0, V1, 5" := by decide

/-! ## WellFormed: the ill-formed terms are refused -/

theorem test_illformed_call : (Instr.call 0x0E0).wellFormed = false ∧ (Instr.call 0x0EE).wellFormed = false ∧
    (Instr.call 0x0E1).wellFormed = true := by decide

/-! ## Control flow -/

theorem test_return : after { vm 0x00EE with stack := [0x0111, 0x0206] } (fun t => (t.pc, t.stack)) =
    some (0x0206, [0x0111]) := by decide
/-- F-2 at 0x200. -/
theorem test_return_underflow : after (vm 0x00EE) (fun t => (t.run, t.pc)) =
    some (.halted .stackUnderflow 0x00EE 0x0200, 0x0200) := by decide
/-- F-3. -/
theorem test_call : after (vm 0x0300) (fun t => (t.pc, t.stack)) = some (0x0300, [0x0202]) := by decide
/-- F-5. -/
theorem test_call_overflow : after { vm 0x2300 with stack := List.replicate 16 0x0111 } (fun t => (t.run, t.pc, t.stack.length)) =
    some (.halted .stackOverflow 0x2300 0x0200, 0x0200, 16) := by decide
/-- F-7: the pushed address wraps. -/
theorem test_callSubroutine_wraps : after ({ State.reset with pc := 0xFFFE }.withFetchWord 16 0x2300)
    (fun t => (t.pc, t.stack)) = some (0x0300, [0x0000]) := by decide
/-- F-8: an odd target. -/
theorem test_jump_odd : after (vm 0x1201) (fun t => (t.pc, t.run)) = some (0x0201, .running) := by decide
/-- F-10. -/
theorem test_jumpPlusV0 : after (set (vm 0xBFF0) 0x0 0x20) State.pc = some 0x1010 := by decide
/-- F-12. -/
theorem test_skipIfEqualImmediate : after (set (vm 0x3342) 0x3 0x42) State.pc = some 0x0204 ∧
    after (set (vm 0x3341) 0x3 0x42) State.pc = some 0x0202 := by decide
/-- F-11: npc wraps. -/
theorem test_skip_wraps : after ({ State.reset with pc := 0xFFFC }.withFetchWord 16 0x3000) State.pc = some 0x0000 := by decide
/-- F-13. -/
theorem test_skipIfNotEqualImmediate : after (set (vm 0x4342) 0x3 0x42) State.pc = some 0x0202 ∧
    after (set (vm 0x4341) 0x3 0x42) State.pc = some 0x0204 := by decide
/-- R147's example, and a miss. -/
theorem test_skipIfRegistersEqual : after (set (set (vm 0x5AB0) 0xA 0x07) 0xB 0x07) State.pc = some 0x0204 ∧
    after (set (vm 0x5AB0) 0xA 0x07) State.pc = some 0x0202 := by decide
/-- F-16, F-15. -/
theorem test_skipIfRegistersNotEqual : after (set (set (vm 0x9AB0) 0xA 0x07) 0xB 0x08) State.pc = some 0x0204 ∧
    after (set (vm 0x9AA0) 0xA 0x07) State.pc = some 0x0202 := by decide

/-! ## Registers and ALU: (the destination, VF) -/

/-- A-1. -/
theorem test_setImmediate : after (vm 0x6F2C) (fun t => (t.reg 0xF, t.pc)) = some (0x2C, 0x0202) := by decide
/-- A-2: no carry flag. -/
theorem test_addImmediate : after (set (vm 0x7AFF) 0xA 0x01) (fun t => (t.reg 0xA, t.reg 0xF)) = some (0x00, 0x00) := by decide
/-- A-4. -/
theorem test_copy : after (set (vm 0x8AB0) 0xB 0x5A) (fun t => (t.reg 0xA, t.reg 0xB)) = some (0x5A, 0x5A) := by decide
/-- A-5: VF unchanged. -/
theorem test_or : after (set (set (set (vm 0x8AB1) 0xA 0xF0) 0xB 0x0F) 0xF 0x55) (fun t => (t.reg 0xA, t.reg 0xF)) =
    some (0xFF, 0x55) := by decide
/-- A-6. -/
theorem test_and : after (set (set (vm 0x8AB2) 0xA 0xF0) 0xB 0x3C) (fun t => t.reg 0xA) = some 0x30 := by decide
/-- A-7. -/
theorem test_xor : after (set (set (vm 0x8AB3) 0xA 0xF0) 0xB 0x3C) (fun t => t.reg 0xA) = some 0xCC := by decide
/-- A-9, the source's own (L1-7). -/
theorem test_addWithCarry : after (set (set (vm 0x8AB4) 0xA 0xFF) 0xB 0x0A) (fun t => (t.reg 0xA, t.reg 0xB, t.reg 0xF)) =
    some (0x09, 0x0A, 0x01) := by decide
/-- A-14: the flag overwrites the sum. -/
theorem test_addWithCarry_into_vf : after (set (set (vm 0x8FA4) 0xF 0x10) 0xA 0xF5) (fun t => t.reg 0xF) = some 0x01 := by decide
/-- A-16. -/
theorem test_subtractWithBorrow : after (set (set (vm 0x8AB5) 0xA 0x05) 0xB 0x07) (fun t => (t.reg 0xA, t.reg 0xF)) =
    some (0xFE, 0x00) := by decide
/-- A-17: equal operands, no borrow. -/
theorem test_subtractWithBorrow_equal : after (set (set (vm 0x8AB5) 0xA 0x07) 0xB 0x07) (fun t => (t.reg 0xA, t.reg 0xF)) =
    some (0x00, 0x01) := by decide
/-- A-21: V[y] stays. -/
theorem test_shiftRight : after (set (vm 0x8AB6) 0xB 0x05) (fun t => (t.reg 0xA, t.reg 0xB, t.reg 0xF)) =
    some (0x02, 0x05, 0x01) := by decide
/-- A-22: the old V[x] is ignored. -/
theorem test_shiftRight_reads_y : after (set (set (vm 0x8AB6) 0xA 0x77) 0xB 0x80) (fun t => (t.reg 0xA, t.reg 0xF)) =
    some (0x40, 0x00) := by decide
/-- A-27. -/
theorem test_reverseSubtract : after (set (set (vm 0x8AB7) 0xA 0x05) 0xB 0x07) (fun t => (t.reg 0xA, t.reg 0xF)) =
    some (0x02, 0x01) := by decide
/-- A-30: V[y] takes the shifted value too. -/
theorem test_shiftLeft : after (set (vm 0x8ABE) 0xB 0x81) (fun t => (t.reg 0xA, t.reg 0xB, t.reg 0xF)) =
    some (0x02, 0x02, 0x01) := by decide
/-- A-33: V[y] is VF; the flag is last. -/
theorem test_shiftLeft_vf : after (set (vm 0x8AFE) 0xF 0x81) (fun t => (t.reg 0xA, t.reg 0xF)) = some (0x02, 0x01) := by decide
/-- A-35, with the Step's `rnd` spelled out. -/
theorem test_randomMask : after { vm 0xC30F with inbox := [.step 0xA7] } (fun t => (t.reg 0x3, t.inbox)) =
    some (0x07, []) := by decide
/-- With no command spelled out the environment issues any command whatever. -/
theorem test_free_turn : step State.reset = { State.reset with draws := 1 }.command (Config.freeCommand 0) := rfl

/-! ## Framebuffer -/

/-- G-1 on two cells. -/
theorem test_clearDisplay : after (set ((vm 0x00E0).setGfx (Vector.replicate 32 0xFFFFFFFFFFFFFFFF)) 0xF 0x07)
    (fun t => (t.cell 0 0, t.cell 63 31, t.reg 0xF)) = some (false, false, 0x07) := by decide
/-- G-4: the start column is reduced, bit 7 is leftmost. -/
theorem test_drawSprite : after (set (loads { vm 0xD011 with I := 0x300 } [(0x300, 0x81)]) 0x0 200)
    (fun t => (t.cell 8 0, t.cell 9 0, t.cell 15 0, t.reg 0xF)) = some (true, false, true, 0x00) := by decide
/-- G-6: a row beyond 31. -/
theorem test_drawSprite_too_low : after (set (vm 0xD015) 0x1 28) (fun t => (t.run, t.gfx == State.reset.gfx)) =
    some (.halted .drawRowOutOfRange 0xD015 0x0200, true) := by decide
/-- G-8: collision, VF as both coordinates. -/
theorem test_drawSprite_collision : after (set ((loads { vm 0xDFF1 with I := 0x300 } [(0x300, 0xFF)]).setGfx
    (Bitmap.toggle (Vector.replicate 32 0) 3 3)) 0xF 3)
    (fun t => (t.cell 3 3, t.cell 4 3, t.cell 10 3, t.reg 0xF)) = some (false, true, true, 0x01) := by decide

/-! ## Keys and timers -/

/-- K-1, K-2. -/
theorem test_skipIfKeyDown : after ((set (vm 0xE49E) 0x4 0x0A).setKey 0xA true) State.pc = some 0x0204 ∧
    after (set (vm 0xE49E) 0x4 0x0A) State.pc = some 0x0202 := by decide
/-- K-4. -/
theorem test_skipIfKeyDown_range : after (set (vm 0xE49E) 0x4 0x10) (fun t => (t.run, t.pc)) =
    some (.halted .keyIndexOutOfRange 0xE49E 0x0200, 0x0200) := by decide
/-- K-3 and R201's example. -/
theorem test_skipIfKeyUp : after (set (vm 0xE4A1) 0x4 0x0A) State.pc = some 0x0204 ∧
    after ((set (vm 0xE4A1) 0x4 0x0A).setKey 0xA true) State.pc = some 0x0202 := by decide
/-- K-5. -/
theorem test_readDelayTimer : after { vm 0xF207 with DT := 0x3C } (fun t => (t.reg 0x2, t.DT)) = some (0x3C, 0x3C) := by decide
/-- K-6. -/
theorem test_setDelayTimer : after (set (vm 0xF215) 0x2 0x3C) State.DT = some 0x3C := by decide
/-- K-7. -/
theorem test_setSoundTimer : after (set (vm 0xF218) 0x2 0x05) (fun t => (t.soundPort, t.soundPlays)) = some (0x05, true) := by decide
/-- K-10. -/
theorem test_blockOnKeyPress : after (vm 0xF30A) (fun t => (t.run, t.pc, t.waitingForKeypress)) =
    some (.awaitingKey 0x3, 0x0202, some 0x3) := by decide
/-- K-11. -/
theorem test_step_while_waiting : afterCommand ((vm 0x6001).awaitKey 0x3) (.step 0x00) (fun t => (t.pc, t.reg 0x0)) =
    some (0x0200, 0x00) := by decide
/-- K-9. -/
theorem test_tick : afterCommand { vm 0x6001 with ST := 0x02 } .tick (fun t => (t.DT, t.ST)) = some (0x00, 0x01) := by decide
/-- K-12, K-13. -/
theorem test_keyEvent : afterCommand ((vm 0x6001).awaitKey 0x3) (.keyEvent 0xB true)
      (fun t => (t.key 0xB, t.reg 0x3, t.run)) = some (true, 0x0B, .running) ∧
    afterCommand (((vm 0x6001).awaitKey 0x3).setKey 0xB true) (.keyEvent 0xB true) (fun t => (t.reg 0x3, t.run)) =
      some (0x00, .awaitingKey 0x3) := by decide

/-! ## Index register and memory -/

/-- M-1. -/
theorem test_setIndex : after { vm 0xA2F0 with I := 0xF000 } State.I = some 0x02F0 := by decide
/-- M-2, M-3. -/
theorem test_addToIndexRegister : after (set { vm 0xF11E with I := 0x0FFF } 0x1 0x02) State.I = some 0x1001 ∧
    after (set { vm 0xF11E with I := 0xFFFF } 0x1 0x02) State.I = some 0x0001 := by decide
/-- M-5. -/
theorem test_useSprite : after (set (vm 0xF229) 0x2 0xFF) (fun t => (t.I, t.run)) = some (0x04FB, .running) := by decide
/-- M-8: the addresses wrap over the font. -/
theorem test_readRegisterAsBCD_wraps : after (set { vm 0xF033 with I := 0x0FFE } 0x0 109)
    (fun t => (t.load 0xFFE, t.load 0xFFF, t.load 0x000, t.I)) = some (1, 0, 9, 0x0FFE) := by decide
/-- L1-8, the source's own: the word is overwritten after it was fetched. -/
theorem test_readRegisterAsBCD : after (set { vm 0xFA33 with I := 0x0200 } 0xA 123)
    (fun t => (t.load 0x200, t.load 0x201, t.load 0x202, t.run)) = some (1, 2, 3, .running) := by decide
/-- R224's example. -/
theorem test_dumpRegisters : after (set (set (set { vm 0xF155 with I := 0x0300 } 0x0 0x11) 0x1 0x22) 0x2 0x33)
    (fun t => (t.load 0x300, t.load 0x301, t.load 0x302, t.I)) = some (0x11, 0x22, 0x00, 0x0300) := by decide
/-- M-10. -/
theorem test_fillRegisters : after (set (loads { vm 0xF065 with I := 0x0300 } [(0x300, 9), (0x301, 8)]) 0x1 0x77)
    (fun t => (t.reg 0x0, t.reg 0x1)) = some (9, 0x77) := by decide

/-! ## The cycle, faults, Reset -/

/-- L1-9. -/
theorem test_illegal_word : after (vm 0x5AB1) (fun t => (t.run, t.pc, t.statusCode)) =
    some (.halted .illegalInstruction 0x5AB1 0x0200, 0x0200, 1) := by decide
/-- C-4: the fetch wraps from 0xFFF to 0x000, over a rewritten font byte. -/
theorem test_fetch_wraps : after ({ State.reset with pc := 0x0FFF }.withFetchWord 16 0x6001)
    (fun t => (t.load 0x000, t.reg 0x0, t.pc)) = some (0x01, 0x01, 0x1001) := by decide
/-- C-3, first step: with no program the word at 0x200 is Call(0x000). -/
theorem test_no_program : after { State.reset with inbox := [.step 0x00] } (fun t => (t.stack, t.pc, t.fetchWord)) = some ([0x0202], 0x0000, 0xF090) := by decide
/-- C-3, second step (R275), under the reference FONT. -/
theorem test_no_program_halts : after { State.reset with pc := 0x0000, inbox := [.step 0x00] } State.run =
    some (.halted .illegalInstruction 0xF090 0x0000) := by decide
/-- C-2: Reset leaves Halted. -/
theorem test_reset_command : afterCommand { (vm 0x5AB1).raise .illegalInstruction with stack := [0x0202], DT := 0x05, inbox := [] } .reset
    (fun t => t == State.reset) = some true := by decide
/-- C-1: a KeyEvent acts in Halted. -/
theorem test_key_in_halted : afterCommand ((vm 0x5AB1).raise .illegalInstruction) (.keyEvent 0x2 true)
    (fun t => (t.key 0x2, isHalted t)) = some (true, true) := by decide
/-- R274: a write beyond 0xFFF lands in low memory; writing back the reset byte restores equal data. -/
theorem test_hostWrite : afterCommand State.reset (.hostWrite 0x1000 0x77) (fun t => t.load 0x000) = some 0x77 ∧
    ((State.reset.store 0x000 0x77).store 0x000 0xF0).mem = [] := by decide
/-- Every row of the opcode table, its operand bits zero, runs as the first instruction after reset. -/
theorem test_every_row_runs : ∀ w ∈ [0x00E0, 0x00EE, 0x0000, 0x1000, 0x2000, 0x3000, 0x4000, 0x5000, 0x6000, 0x7000, 0x8000,
    0x8001, 0x8002, 0x8003, 0x8004, 0x8005, 0x8006, 0x8007, 0x800E, 0x9000, 0xA000, 0xB000, 0xC000, 0xD000, 0xE09E,
    0xE0A1, 0xF007, 0xF00A, 0xF015, 0xF018, 0xF01E, 0xF029, 0xF033, 0xF055, 0xF065],
    (after (vm w) (fun _ => true) = some true) := by decide

/-! ## Witnesses: for every statement with hypotheses, states and operands that meet them, clause by clause -/

theorem witness_DecodeInvertsEncode : (Instr.call 0x0DF).wellFormed = true ∧ (Instr.call 0xFFF).wellFormed = true ∧
    (Instr.drawSprite 0xF 0x0 0xF).wellFormed = true := by decide

theorem witness_EncodeInvertsDecode : decode 0x00E1 = .ok (.call 0x0E1) ∧ decode 0xFF65 = .ok (.fillRegisters 0xF) := by decide

theorem witness_IllegalWordsExactly : (vm 0x5AB1).run = .running ∧ decode (vm 0x5AB1).fetchWord = .error .illegalWord ∧
    decode 0x8008 = .error .illegalWord ∧ decode 0x900F = .error .illegalWord ∧ decode 0xE09D = .error .illegalWord ∧
    decode 0xF066 = .error .illegalWord := by decide

theorem witness_DecoderStructDeterminesWord : decode 0xF065 = .ok (.fillRegisters 0x0) ∧
    decode 0xF066 = .error .illegalWord ∧ (decoderOutput 0xF065).valid = true ∧
    decoderOutput 0xF065 = decoderOutput 0xF065 := by decide

/-- Addresses that agree modulo 4096 and addresses that differ by one. -/
theorem witness_LoadAfterStore : (0x0FFF : Word).toNat % 4096 = (0x1FFF : Word).toNat % 4096 ∧
    (0x0FFF : Word).toNat % 4096 ≠ (0x1000 : Word).toNat % 4096 := by decide

theorem witness_CanonicalMemoriesAreEqual : Memory.wf (resetByte referenceConfig) [(0x04F, 0x00), (0xFFF, 0x01)] = true ∧
    ∀ a, a < memSize → Memory.read (resetByte referenceConfig) [(0x04F, 0x00), (0xFFF, 0x01)] a =
      Memory.read (resetByte referenceConfig) [(0x04F, 0x00), (0xFFF, 0x01)] a := ⟨by decide, fun _ _ => rfl⟩

theorem witness_FetchSeesStores : { State.reset with pc := 0x0FFF }.pc = 0x0FFF := by decide

theorem witness_StepRunsDecodedInstruction : (vm 0x8AB4).run = .running ∧
    decode (vm 0x8AB4).fetchWord = .ok (.addWithCarry 0xA 0xB) ∧ { vm 0x8AB4 with inbox := [] }.inbox = [] ∧
    { vm 0x8AB4 with inbox := [.step 0xFF, .tick] }.inbox = .step 0xFF :: [.tick] := by decide

theorem witness_DecodeErrorRaisesIllegalInstruction : (vm 0x5AB1).run = .running ∧
    decode (vm 0x5AB1).fetchWord = .error .illegalWord ∧ (vm 0x5AB0).run = .running ∧
    decode (vm 0x5AB0).fetchWord = .ok (.skipIfRegistersEqual 0xA 0xB) := by decide

theorem witness_StepHoldsWhenNotRunning : ((vm 0x6001).awaitKey 0x3).run ≠ .running ∧
    ((vm 0x5AB1).raise .illegalInstruction).run ≠ .running ∧
    { (vm 0x6001).awaitKey 0x3 with inbox := [.step 0x01, .tick] }.inbox = .step 0x01 :: [.tick] := by decide

theorem witness_PlacedInstructionRunsNext : (Instr.fillRegisters 0xF).wellFormed = true := by decide

theorem witness_ExecuteAppliesTheInstructionRule : (vm 0xC3FF).run = .running ∧
    decode (vm 0xC3FF).fetchWord = .ok (.randomMask 0x3 0xFF) ∧ writesPc (.randomMask 0x3 0xFF) = false ∧
    executionFault (vm 0xC3FF) (.randomMask 0x3 0xFF) = none ∧
    exec (.randomMask 0x3 0xFF) (vm 0xC3FF) = .next ((vm 0xC3FF).advance.setReg 0x3 0x00) :=
  ⟨by decide, by decide, rfl, by decide, rfl⟩

/-- The clause for the instructions other than RandomMask. -/
theorem witness_ExecuteReadsNoDraw : (∀ x kk, Instr.clearDisplay ≠ .randomMask x kk) ∧
    exec .clearDisplay (vm 0x00E0) = .next (vm 0x00E0).advance := ⟨fun _ _ => nofun, rfl⟩

theorem witness_InstructionsChangeOnlyTheirOwnState : exec (.setIndex 0xFFF) State.reset =
    .next { State.reset with pc := 0x0202, I := 0x0FFF } := rfl

/-- A call at the last free entry and a return of the only entry. -/
theorem witness_StackMovesByCallsAndReturnsOnly :
    exec (.call 0x300) { State.reset with stack := List.replicate 15 0x0111 } =
      .next { State.reset with pc := 0x0300, stack := List.replicate 15 0x0111 ++ [0x0202] } ∧
    exec .returnFromSubroutine { State.reset with stack := [0x0206] } = .next { State.reset with pc := 0x0206 } := ⟨rfl, rfl⟩

theorem witness_SoundTimerIsReadByNoInstruction : exec (.readDelayTimer 0x2) { State.reset with ST := 0x07 } =
    .next { State.reset with pc := 0x0202, ST := 0x07 } := rfl

/-- Every cause a row of the table gives, and an instruction with none, each at its boundary. -/
theorem witness_FaultTableIsExact : State.reset.run = .running ∧
    executionFault State.reset .returnFromSubroutine = some .stackUnderflow ∧
    executionFault { State.reset with stack := List.replicate 16 0x0111 } (.call 0x300) = some .stackOverflow ∧
    executionFault { State.reset with stack := List.replicate 15 0x0111 } (.call 0x300) = none ∧
    executionFault (set State.reset 0x0 0x10) (.skipIfKeyDown 0x0) = some .keyIndexOutOfRange ∧
    executionFault (set State.reset 0x0 0x0F) (.skipIfKeyUp 0x0) = none ∧
    executionFault (set State.reset 0x0 31) (.drawSprite 0x1 0x0 2) = some .drawRowOutOfRange ∧
    executionFault (set State.reset 0x0 31) (.drawSprite 0x1 0x0 1) = none := by decide

theorem witness_CauseCodes : ((vm 0x5AB1).raise .illegalInstruction).run = .halted .illegalInstruction 0x5AB1 0x0200 := by decide

theorem witness_OnlyResetLeavesHalted : isHalted ((vm 0x5AB1).raise .illegalInstruction) = true ∧
    Command.keyEvent 0x3 true ≠ .reset ∧ Command.step 0x00 ≠ .reset ∧ Command.tick ≠ .reset ∧
    Command.hostWrite 0x200 0x00 ≠ .reset := by decide

/-- A command that ends the wait, and one that does not: the key is down already. -/
theorem witness_OnlyNewKeyDownEndsTheWait : ((vm 0x6001).awaitKey 0x3).run = .awaitingKey 0x3 ∧
    Command.keyEvent 0xF true ≠ .reset ∧ ((vm 0x6001).awaitKey 0x3).key 0xF = false ∧
    (((vm 0x6001).awaitKey 0x3).setKey 0xF true).run = .awaitingKey 0x3 ∧
    (((vm 0x6001).awaitKey 0x3).setKey 0xF true).key 0xF = true := by decide

/-- A state off the reset run: a full stack, a memory that lists a byte. -/
def busy : State := { vm 0x00EE with stack := List.replicate 16 0x0206, inbox := [.step 0x07, .tick] }

theorem witness_EveryStepKeepsTheInvariant : Inv busy ∧ step busy = .next { busy with
    pc := 0x0206, stack := List.replicate 15 0x0206, rnd := 0x07, inbox := [.tick] } :=
  ⟨⟨by decide, by decide, trivial⟩, by rfl⟩

/-- A jump to itself (R143: `0x1200` at 0x200) runs safely. -/
theorem witness_SafeRunsKeepTheInvariant : Inv { vm 0x1200 with inbox := [.step 0x00, .step 0x00] } ∧
    SafeRun 2 { vm 0x1200 with inbox := [.step 0x00, .step 0x00] } :=
  ⟨⟨by decide, by decide, trivial⟩, ⟨rfl, ⟨rfl, rfl⟩⟩⟩

theorem witness_ReturnPopsTheLastAddress : { State.reset with stack := [0x0111, 0x0206] }.stack = [0x0111] ++ [0x0206] ∧
    State.reset.stack = [] := by decide

theorem witness_CallsPushTheNextAddress : (Instr.callSubroutine 0xFFF = .call 0xFFF ∨
      Instr.callSubroutine 0xFFF = .callSubroutine 0xFFF) ∧
    { State.reset with stack := List.replicate 15 0x0111 }.stack.length < State.reset.cfg.stackDepth ∧
    { State.reset with stack := List.replicate 16 0x0111 }.stack.length = State.reset.cfg.stackDepth := by decide

theorem witness_CallEncodings : (0x0E1 : Addr12) ≠ 0x0E0 ∧ (0x0E1 : Addr12) ≠ 0x0EE := by decide

theorem witness_CallThenReturnComesBack : (Instr.call 0x300 = .call 0x300 ∨ Instr.call 0x300 = .callSubroutine 0x300) ∧
    { State.reset with stack := List.replicate 15 0x0111 }.stack.length < State.reset.cfg.stackDepth := by decide

theorem witness_JumpGoesToTheAddress : { State.reset with pc := 0x0FFF }.pc.toNat = (0xFFF : Addr12).toNat ∧
    (vm 0x1200).pc.toNat = (0x200 : Addr12).toNat ∧ (vm 0x1200).run = .running ∧
    (vm 0x1200).fetchWord = 0x1#4 ++ 0x200#12 := by decide

theorem witness_RegisterSkips : (0x1 : Nibble) ≠ 0 ∧ (0xF : Nibble) ≠ 0 := by decide

theorem witness_AddWithCarrySumAndCarry : (0xE : Nibble) ≠ 0xF := by decide

theorem witness_SubtractionsAndNoBorrow : (0xE : Nibble) ≠ 0xF := by decide

theorem witness_ShiftsByOneBit : (0xE : Nibble) ≠ 0xF ∧ (0x0 : Nibble) ≠ 0xF := by decide

/-- The last rows that draw, the first that faults, and no rows at all below the display. -/
theorem witness_DrawSpriteXorsTheSprite :
    (¬ (0 < (4 : Nibble).toNat ∧ 31 < ((set State.reset 0x1 28).reg 0x1).toNat + (4 : Nibble).toNat - 1)) ∧
    (0 < (5 : Nibble).toNat ∧ 31 < ((set State.reset 0x1 28).reg 0x1).toNat + (5 : Nibble).toNat - 1) ∧
    (¬ (0 < (0 : Nibble).toNat ∧ 31 < ((set State.reset 0x1 200).reg 0x1).toNat + (0 : Nibble).toNat - 1)) := by decide

/-- Row 31, the font's 0xF0 of address 0 at column 60, wrapping to column 63. -/
theorem witness_DrawingTwiceUndoes : executionFault (set (set State.reset 0x0 60) 0x1 31) (.drawSprite 0x0 0x1 1) = none ∧
    after { set (set (vm 0xD011) 0x0 60) 0x1 31 with inbox := [.step 0x00] }
      (fun t => (t.reg 0x0, t.reg 0x1, t.cell 63 31)) = some (60, 31, true) := by decide

theorem witness_KeySkips : ((set State.reset 0x0 0x0F).reg 0x0).toNat = (0xF : Nibble).toNat ∧
    0x0F < ((set State.reset 0x0 0x10).reg 0x0).toNat ∧
    (Instr.skipIfKeyUp 0x0 = .skipIfKeyDown 0x0 ∨ Instr.skipIfKeyUp 0x0 = .skipIfKeyUp 0x0) := by decide

theorem witness_BlockOnKeyPressWaits : (State.reset.setKey 0xF true).key 0xF = true := by decide

/-- A new key-down in the wait; a key already held; a release; no wait. -/
theorem witness_KeyEventSetsTheKey : ((vm 0x6001).awaitKey 0xF).run = .awaitingKey 0xF ∧
    ((vm 0x6001).awaitKey 0xF).key 0xF = false ∧
    (((vm 0x6001).awaitKey 0xF).setKey 0xF true).key 0xF = true ∧ (∀ target, (vm 0x6001).run ≠ .awaitingKey target) := by decide

theorem witness_HostWriteWritesOneByte : (0x0000 : Word).toNat % 4096 ≠ (0x0FFF : Word).toNat % 4096 := by decide

theorem witness_DumpStoresTheRegisters : (0xF : Nibble).toNat ≤ (0xF : Nibble).toNat ∧
    (0x0 : Nibble).toNat ≤ (0x0 : Nibble).toNat := by decide

theorem witness_FillLoadsTheRegisters : (0xE : Nibble).toNat ≤ (0xE : Nibble).toNat ∧
    (0xE : Nibble).toNat < (0xF : Nibble).toNat := by decide

/-- Any bank over the dumped memory: here the dumping machine itself, its V0 overwritten. -/
theorem witness_DumpThenFillRoundTrips : exec (.dumpRegisters 0x0) (set State.reset 0x0 0x11) =
      .next ((set { State.reset with pc := 0x0202 } 0x0 0x11).store 0x0000 0x11) ∧
    (set ((set { State.reset with pc := 0x0202 } 0x0 0x11).store 0x0000 0x11) 0x0 0x77).I = 0x0000 ∧
    (∀ a, (set ((set { State.reset with pc := 0x0202 } 0x0 0x11).store 0x0000 0x11) 0x0 0x77).load a =
      ((set { State.reset with pc := 0x0202 } 0x0 0x11).store 0x0000 0x11).load a) :=
  ⟨rfl, by decide, fun _ => rfl⟩

theorem witness_EveryOrderOfCommandsIsARun : State.reset.inbox = [] := by decide

end Sys2Proof.Tests
end

section
/-! Read after write over every state (spec/00_scope.md R13), and the frame of the write. -/

namespace Sys2Proof.Machine

open Sys2Proof.Safety

/-- The reduction spelled as R13 spells it. -/
theorem reduce_eq_mod (a : Word) : reduce a = a.toNat % 4096 := rfl

theorem State.load_store_same (s : State) {a b : Word} (v : Byte) (h : reduce a = reduce b) :
    (s.store a v).load b = v := by
  rw [State.load_store, if_pos h]

theorem State.load_store_of_ne (s : State) {a b : Word} (v : Byte) (h : reduce a ≠ reduce b) :
    (s.store a v).load b = s.load b := by
  rw [State.load_store, if_neg h]

/-- The frame of the write, piece by piece: memory is the only one that can read differently. -/
theorem State.store_onlyChanges_memory (s : State) (a : Word) (v : Byte) :
    OnlyChanges [] [.memory] s (s.store a v) := by
  refine ⟨fun r _ => s.store_reg a v r, fun p hp => ?_⟩
  cases p with
  | memory => simp at hp
  | index => exact s.store_I a v
  | pc => exact s.store_pc a v
  | stack => exact s.store_stack a v
  | delayTimer => exact s.store_DT a v
  | soundTimer => exact s.store_ST a v
  | framebuffer => exact s.store_cell a v
  | keys => exact s.store_key a v
  | run => exact s.store_run a v
  | parameters => exact s.store_cfg a v
  | inputs => exact ⟨s.store_rnd a v, s.store_draws a v, s.store_inbox a v⟩

/-- A fetch is two one-byte reads (R13), `pc + 1` formed before the reduction (R71). -/
theorem State.fetchWord_eq_wordOfBytes (s : State) :
    s.fetchWord = wordOfBytes (s.load s.pc) (s.load (s.pc + 1)) := rfl

/-- Settles O7: a read sees a write exactly when the two addresses reduce alike, and the write leaves the rest alone. -/
theorem loadAfterStore : Obligations.LoadAfterStore := by
  unfold Obligations.LoadAfterStore
  intro s a b v
  simp only [← reduce_eq_mod]
  exact ⟨fun h => ⟨s.load_store_same v h, s.load_congr h⟩, s.load_store_of_ne v,
    s.store_onlyChanges_memory a v, s.fetchWord_eq_wordOfBytes⟩

end Sys2Proof.Machine
end

section
/-! The fields of a word (spec/30_encoding.md R93) and its illegal words (R100): which words each class of the decoder
refuses, and what a Step does with one. -/

namespace Sys2Proof

/-- Settles O1, field by field. -/
theorem fieldsAreTheSpecsSlices : Obligations.FieldsAreTheSpecsSlices := by
  unfold Obligations.FieldsAreTheSpecsSlices
  exact fun w => ⟨w.toNat_op, w.toNat_x, w.toNat_y, w.toNat_n, w.toNat_kk, w.toNat_nnn⟩

/-! The refused words, class by class. -/

theorem decodeClass8_eq_illegalWord_iff (x y n : Nibble) :
    decodeClass8 x y n = .error .illegalWord ↔ n ∈ [0x8#4, 0x9#4, 0xA#4, 0xB#4, 0xC#4, 0xD#4, 0xF#4] := by
  rcases Nibble.cases n with h | h | h | h | h | h | h | h | h | h | h | h | h | h | h | h <;>
    simp [decodeClass8, h]

theorem decodeClassE_eq_illegalWord_iff (x : Nibble) (kk : Byte) :
    decodeClassE x kk = .error .illegalWord ↔ kk ∉ [0x9E#8, 0xA1#8] := by
  unfold decodeClassE
  split_ifs <;> simp [*]

theorem decodeClassF_eq_illegalWord_iff (x : Nibble) (kk : Byte) :
    decodeClassF x kk = .error .illegalWord ↔
      kk ∉ [0x07#8, 0x0A#8, 0x15#8, 0x18#8, 0x1E#8, 0x29#8, 0x33#8, 0x55#8, 0x65#8] := by
  unfold decodeClassF
  split_ifs <;> simp [*]

/-- R100: the refused words over all classes; the eleven classes it does not name refuse none. -/
theorem decode_eq_illegalWord_iff (w : Word) :
    decode w = .error .illegalWord ↔
      (w.op = 0x5 ∧ w.n ≠ 0) ∨
      (w.op = 0x8 ∧ w.n ∈ [0x8#4, 0x9#4, 0xA#4, 0xB#4, 0xC#4, 0xD#4, 0xF#4]) ∨
      (w.op = 0x9 ∧ w.n ≠ 0) ∨
      (w.op = 0xE ∧ w.kk ∉ [0x9E#8, 0xA1#8]) ∨
      (w.op = 0xF ∧ w.kk ∉ [0x07#8, 0x0A#8, 0x15#8, 0x18#8, 0x1E#8, 0x29#8, 0x33#8, 0x55#8, 0x65#8]) := by
  rcases Nibble.cases w.op with h | h | h | h | h | h | h | h | h | h | h | h | h | h | h | h
  · simp [decode_op_0 w h, h]
  · simp [decode_op_1 w h, h]
  · simp [decode_op_2 w h, h]
  · simp [decode_op_3 w h, h]
  · simp [decode_op_4 w h, h]
  · simp [decode_op_5 w h, h]
  · simp [decode_op_6 w h, h]
  · simp [decode_op_7 w h, h]
  · rw [decode_op_8 w h, decodeClass8_eq_illegalWord_iff]; simp [h]
  · simp [decode_op_9 w h, h]
  · simp [decode_op_A w h, h]
  · simp [decode_op_B w h, h]
  · simp [decode_op_C w h, h]
  · simp [decode_op_D w h, h]
  · rw [decode_op_E w h, decodeClassE_eq_illegalWord_iff]; simp [h]
  · rw [decode_op_F w h, decodeClassF_eq_illegalWord_iff]; simp [h]

end Sys2Proof

namespace Sys2Proof.Machine

open Sys2Proof.Safety

/-- The frame of a fault: the run state alone can read differently. -/
theorem State.raise_onlyChanges_run (s : State) (c : Cause) : OnlyChanges [] [.run] s (s.raise c) := by
  refine ⟨fun r _ => s.raise_reg c r, fun p hp => ?_⟩
  cases p with
  | run => simp at hp
  | memory => exact s.raise_load c
  | index => exact s.raise_I c
  | pc => exact s.raise_pc c
  | stack => exact s.raise_stack c
  | delayTimer => exact s.raise_DT c
  | soundTimer => exact s.raise_ST c
  | framebuffer => exact s.raise_cell c
  | keys => exact s.raise_key c
  | parameters => exact s.raise_cfg c
  | inputs => exact ⟨s.raise_rnd c, s.raise_draws c, s.raise_inbox c⟩

theorem State.raise_haltedBy (s : State) (c : Cause) : HaltedBy c s (s.raise c) :=
  ⟨s.raise_run c, s.raise_onlyChanges_run c⟩

/-- R123: on a running machine every decode error raises IllegalInstruction, and nothing of the Step is committed. -/
theorem State.command_step_of_decode_error {s : State} {e : DecodeError} (rnd : Byte) (hrun : s.run = .running)
    (hdec : decode s.fetchWord = .error e) :
    s.command (.step rnd) = .next ((s.withRnd rnd).raise .illegalInstruction) := by
  obtain ⟨-, i, hi, -⟩ | ⟨-, -, hstep⟩ | ⟨hrun', -⟩ := s.stepCommand_cases rnd
  · rw [hdec] at hi; cases hi
  · exact hstep
  · exact absurd hrun hrun'

/-- Settles O5: the decoder class by class, then the raise of the Step that fetches a refused word. -/
theorem illegalWordsExactly : Obligations.IllegalWordsExactly := by
  unfold Obligations.IllegalWordsExactly
  exact ⟨decode_eq_illegalWord_iff, fun s rnd hrun hdec =>
    ⟨_, State.command_step_of_decode_error rnd hrun hdec, (s.withRnd rnd).raise_haltedBy _⟩⟩

end Sys2Proof.Machine
end

section
/-! EXECUTE (spec/40_execute_cycle.md R123, R124): a Step runs the decoded instruction or raises IllegalInstruction; an
instruction that does not write `pc` leaves it at `npc`; only RandomMask reads `rnd`. -/

namespace Sys2Proof.Machine

open Sys2Proof.Safety

/-! The two outcomes of the decode check (R123). -/

theorem State.command_step_of_decode_ok {s : State} {i : Instr} (rnd : Byte) (hrun : s.run = .running)
    (hdec : decode s.fetchWord = .ok i) : s.command (.step rnd) = exec i (s.withRnd rnd) := by
  obtain ⟨-, j, hj, hstep⟩ | ⟨-, ⟨e, he⟩, -⟩ | ⟨hrun', -⟩ := s.stepCommand_cases rnd
  · rw [hdec] at hj
    cases hj
    exact hstep
  · rw [hdec] at he; cases he
  · exact absurd hrun hrun'

/-- Settles O11: the Step of a word that decodes is its instruction, that of any other is a raise. -/
theorem decodeErrorRaisesIllegalInstruction : Obligations.DecodeErrorRaisesIllegalInstruction := by
  unfold Obligations.DecodeErrorRaisesIllegalInstruction
  intro s rnd hrun
  refine ⟨fun i hdec => State.command_step_of_decode_ok rnd hrun hdec, fun e hdec =>
    ⟨_, State.command_step_of_decode_error rnd hrun hdec, ?_⟩⟩
  obtain ⟨hhalted, hframe⟩ := (s.withRnd rnd).raise_haltedBy .illegalInstruction
  exact ⟨hhalted, (s.withRnd rnd).raise_pc _, hframe⟩

/-! The advance (R124). -/

/-- All that DrawSprite can do (R193): raise for a row beyond the display, or draw and advance. -/
theorem exec_drawSprite_cases (x y n : Nibble) (s : State) :
    ((0 < n.toNat ∧ 31 < (s.reg y).toNat + n.toNat - 1) ∧
      exec (.drawSprite x y n) s = .next (s.raise .drawRowOutOfRange)) ∨
    (¬ (0 < n.toNat ∧ 31 < (s.reg y).toNat + n.toNat - 1) ∧ exec (.drawSprite x y n) s =
      .next ((s.setGfx (s.drawn x y n).gfx).setReg VF (flagByte (s.drawn x y n).hit)).advance) := by
  by_cases h : 0 < n.toNat ∧ 31 < (s.reg y).toNat + n.toNat - 1
  · exact .inl ⟨h, congrArg _ (if_pos (decide_eq_true h))⟩
  · exact .inr ⟨h, congrArg _ (if_neg (by simpa [spriteTooLow] using h))⟩

/-- An instruction that does not write `pc` and does not fault ends in the advance of a state that still has `pc`. -/
theorem exec_eq_next_advance {i : Instr} {s : State} (hpc : writesPc i = false) (hfault : executionFault s i = none) :
    ∃ u, exec i s = .next (State.advance u) ∧ u.pc = s.pc := by
  cases i with
  | returnFromSubroutine | call | callSubroutine | jump | jumpPlusV0 | skipIfEqualImmediate | skipIfNotEqualImmediate
  | skipIfRegistersEqual | skipIfRegistersNotEqual | skipIfKeyDown | skipIfKeyUp => cases hpc
  | drawSprite x y n =>
    obtain ⟨hlow, -⟩ | ⟨-, hdraw⟩ := exec_drawSprite_cases x y n s
    · simp [executionFault, hlow] at hfault
    · exact ⟨_, hdraw, rfl⟩
  | readRegisterAsBCD | dumpRegisters => exact ⟨_, rfl, s.storeRun_pc _ _⟩
  | fillRegisters => exact ⟨_, rfl, s.loadRun_pc _⟩
  | _ => exact ⟨_, rfl, rfl⟩

/-! The input `rnd` (R124, R10): every shared operation commutes with another byte at the input port. -/

theorem State.storeRun_withRnd (s : State) (rnd : Byte) (f : Nat → Byte) (n : Nat) :
    (s.withRnd rnd).storeRun f n = (s.storeRun f n).withRnd rnd := by
  induction n with
  | zero => rfl
  | succ n ih => rw [State.storeRun_succ, State.storeRun_succ, ih]; rfl

theorem State.loadRun_withRnd (s : State) (rnd : Byte) (n : Nat) :
    (s.withRnd rnd).loadRun n = (s.loadRun n).withRnd rnd := by
  induction n with
  | zero => rfl
  | succ n ih => rw [State.loadRun_succ, State.loadRun_succ, ih]; rfl

theorem State.callTo_withRnd (s : State) (rnd : Byte) (target : Word) :
    (s.withRnd rnd).callTo target = (s.callTo target).withRnd rnd := by
  unfold State.callTo
  rw [apply_ite (State.withRnd · rnd)]; rfl

theorem State.skipOnKey_withRnd (s : State) (rnd : Byte) (x : Nibble) (down : Bool) :
    (s.withRnd rnd).skipOnKey x down = (s.skipOnKey x down).withRnd rnd := by
  unfold State.skipOnKey
  rw [apply_ite (State.withRnd · rnd)]; rfl

theorem State.returnToCaller_withRnd (s : State) (rnd : Byte) :
    (s.withRnd rnd).returnToCaller = s.returnToCaller.withRnd rnd := by
  simp only [State.returnToCaller, State.withRnd_stack]
  cases s.stack.getLast? <;> rfl

theorem exec_drawSprite_withRnd (x y n : Nibble) {s t : State} (rnd : Byte)
    (h : exec (.drawSprite x y n) s = .next t) : exec (.drawSprite x y n) (s.withRnd rnd) = .next (t.withRnd rnd) := by
  cases h
  show Host.Outcome.next (ite _ _ _) = .next (State.withRnd (ite _ _ _) rnd)
  rw [apply_ite (State.withRnd · rnd)]; rfl

/-- An instruction other than RandomMask does the same for every `rnd`, and leaves it at the input port. -/
theorem exec_withRnd {i : Instr} {s t : State} (rnd : Byte) (hi : ∀ x kk, i ≠ .randomMask x kk)
    (h : exec i s = .next t) : exec i (s.withRnd rnd) = .next (t.withRnd rnd) := by
  cases i with
  | randomMask x kk => exact absurd rfl (hi x kk)
  | drawSprite x y n => exact exec_drawSprite_withRnd x y n rnd h
  | returnFromSubroutine => cases h; exact congrArg _ (s.returnToCaller_withRnd rnd)
  | call | callSubroutine => cases h; exact congrArg _ (s.callTo_withRnd rnd _)
  | skipIfKeyDown | skipIfKeyUp => cases h; exact congrArg _ (s.skipOnKey_withRnd rnd _ _)
  | readRegisterAsBCD | dumpRegisters =>
    cases h; exact congrArg (Host.Outcome.next ∘ State.advance) (s.storeRun_withRnd rnd _ _)
  | fillRegisters => cases h; exact congrArg (Host.Outcome.next ∘ State.advance) (s.loadRun_withRnd rnd _)
  | _ => cases h; rfl

/-- Settles O14: the decode check passed, the advance, and the input port. -/
theorem executeAppliesTheInstructionRule : Obligations.ExecuteAppliesTheInstructionRule := by
  unfold Obligations.ExecuteAppliesTheInstructionRule
  refine ⟨fun s rnd i hrun hdec => State.command_step_of_decode_ok rnd hrun hdec, fun i s t hpc hfault h => ?_,
    fun i s t rnd hi h => exec_withRnd rnd hi h⟩
  obtain ⟨u, hexec, hu⟩ := exec_eq_next_advance hpc hfault
  cases hexec.symm.trans h
  rw [State.advance_pc, hu]

end Sys2Proof.Machine
end

section
/-! Jumps and skips (spec/41_flow.md R143, R145 to R148): the words of their classes, the frame of a write of `pc`, and
what the skip convention (spec/40_execute_cycle.md R127) makes of a comparison. -/

namespace Sys2Proof

/-! The decoder on a word put together from its fields. -/

theorem decode_formatNNN_1 (nnn : Addr12) : decode (0x1#4 ++ nnn) = .ok (.jump nnn) := by
  rw [decode_op_1 _ (Word.op_formatNNN _ _), Word.nnn_formatNNN]

theorem decode_formatXKK_3 (x : Nibble) (kk : Byte) :
    decode (0x3#4 ++ x ++ kk) = .ok (.skipIfEqualImmediate x kk) := by
  rw [decode_op_3 _ (Word.op_formatXKK _ _ _), Word.x_formatXKK, Word.kk_formatXKK]

theorem decode_formatXKK_4 (x : Nibble) (kk : Byte) :
    decode (0x4#4 ++ x ++ kk) = .ok (.skipIfNotEqualImmediate x kk) := by
  rw [decode_op_4 _ (Word.op_formatXKK _ _ _), Word.x_formatXKK, Word.kk_formatXKK]

theorem decode_formatXYN_5 (x y n : Nibble) : decode (0x5#4 ++ x ++ y ++ n) =
    if n = 0#4 then .ok (.skipIfRegistersEqual x y) else .error .illegalWord := by
  rw [decode_op_5 _ (Word.op_formatXYN _ _ _ _), Word.x_formatXYN, Word.y_formatXYN, Word.n_formatXYN]

theorem decode_formatXYN_9 (x y n : Nibble) : decode (0x9#4 ++ x ++ y ++ n) =
    if n = 0#4 then .ok (.skipIfRegistersNotEqual x y) else .error .illegalWord := by
  rw [decode_op_9 _ (Word.op_formatXYN _ _ _ _), Word.x_formatXYN, Word.y_formatXYN, Word.n_formatXYN]

end Sys2Proof

namespace Sys2Proof.Machine

open Sys2Proof.Safety

/-! Writing `pc`. -/

/-- The frame of the write: the program counter alone can read differently. -/
theorem State.setPc_onlyChanges_pc (s : State) (p : Word) : OnlyChanges [] [.pc] s (s.setPc p) := by
  refine ⟨fun r _ => s.setPc_reg p r, fun q hq => ?_⟩
  cases q with
  | pc => simp at hq
  | memory => exact s.setPc_load p
  | index => exact s.setPc_I p
  | stack => exact s.setPc_stack p
  | delayTimer => exact s.setPc_DT p
  | soundTimer => exact s.setPc_ST p
  | framebuffer => exact s.setPc_cell p
  | keys => exact s.setPc_key p
  | run => exact s.setPc_run p
  | parameters => exact s.setPc_cfg p
  | inputs => exact ⟨s.setPc_rnd p, s.setPc_draws p, s.setPc_inbox p⟩

theorem State.skip_onlyChanges_pc (s : State) (c : Bool) : OnlyChanges [] [.pc] s (s.skip c) :=
  s.setPc_onlyChanges_pc _

@[simp] theorem State.setPc_self (s : State) : s.setPc s.pc = s := rfl

@[simp] theorem addr16_toNat (nnn : Addr12) : (addr16 nnn).toNat = nnn.toNat :=
  BitVec.toNat_setWidth_of_le (by decide)

/-! Jump. -/

theorem exec_jump (nnn : Addr12) (s : State) : exec (.jump nnn) s = .next (s.setPc (addr16 nnn)) := rfl

/-- A jump to its own address writes back the `pc` it read. -/
theorem exec_jump_self {nnn : Addr12} {s : State} (hself : s.pc.toNat = nnn.toNat) :
    exec (.jump nnn) s = .next s := by
  have hpc : addr16 nnn = s.pc := BitVec.eq_of_toNat_eq ((addr16_toNat nnn).trans hself.symm)
  rw [exec_jump, hpc, State.setPc_self]

/-- Settles O32: decode, the jump with its frame, and the jump to itself, alone and as a Step. -/
theorem jumpGoesToTheAddress : Obligations.JumpGoesToTheAddress := by
  unfold Obligations.JumpGoesToTheAddress
  intro s nnn
  refine ⟨decode_formatNNN_1 nnn, ⟨_, exec_jump nnn s, addr16_toNat nnn, s.setPc_onlyChanges_pc _⟩,
    fun hself => ⟨exec_jump_self hself, fun hrun hfetch rnd => ?_⟩⟩
  have hdec : decode s.fetchWord = .ok (.jump nnn) := by rw [hfetch, decode_formatNNN_1]
  rw [State.command_step_of_decode_ok rnd hrun hdec]
  exact exec_jump_self hself

/-! Skips (R127): where a skip on a comparison of two bytes goes. -/

theorem State.skip_pc_eq_ite (s : State) (c : Bool) : (s.skip c).pc = if c then s.pc + 4 else s.pc + 2 := by
  rw [State.skip_pc, BitVec.add_assoc]; rfl

theorem State.skip_beq_pc (s : State) (a b : Byte) :
    (s.skip (a == b)).pc = if a = b then s.pc + 4 else s.pc + 2 := by
  simp only [State.skip_pc_eq_ite, beq_iff_eq]

theorem State.skip_bne_pc (s : State) (a b : Byte) :
    (s.skip (a != b)).pc = if a = b then s.pc + 2 else s.pc + 4 := by
  simp only [State.skip_pc_eq_ite, bne_iff_ne, ne_eq, ite_not]

/-- Settles O34: the two words, then each skip on its comparison of `V[x]` with `kk`. -/
theorem immediateSkips : Obligations.ImmediateSkips := by
  unfold Obligations.ImmediateSkips
  exact fun s x kk => ⟨decode_formatXKK_3 x kk, decode_formatXKK_4 x kk,
    ⟨_, rfl, s.skip_beq_pc _ _, s.skip_onlyChanges_pc _⟩,
    ⟨_, rfl, s.skip_bne_pc _ _, s.skip_onlyChanges_pc _⟩⟩

/-- Settles O35: the two classes with and without a nonzero bottom nibble, then each skip on its comparison of `V[x]`
with `V[y]`. -/
theorem registerSkips : Obligations.RegisterSkips := by
  unfold Obligations.RegisterSkips
  exact fun s x y => ⟨decode_formatXYN_5 x y 0, decode_formatXYN_9 x y 0,
    fun n hn => ⟨(decode_formatXYN_5 x y n).trans (if_neg hn), (decode_formatXYN_9 x y n).trans (if_neg hn)⟩,
    ⟨_, rfl, s.skip_beq_pc _ _, s.skip_onlyChanges_pc _⟩,
    ⟨_, rfl, s.skip_bne_pc _ _, s.skip_onlyChanges_pc _⟩⟩

end Sys2Proof.Machine
end

section
/-! Register writes (spec/42_alu.md R161 to R163): the words of their classes, the frame of a write to one register, how
frames compose, and an instruction that ends in such a write and the advance. -/

namespace Sys2Proof

/-! The decoder on a word put together from its fields. -/

theorem decode_formatXKK_6 (x : Nibble) (kk : Byte) : decode (0x6#4 ++ x ++ kk) = .ok (.setImmediate x kk) := by
  rw [decode_op_6 _ (Word.op_formatXKK _ _ _), Word.x_formatXKK, Word.kk_formatXKK]

theorem decode_formatXKK_7 (x : Nibble) (kk : Byte) : decode (0x7#4 ++ x ++ kk) = .ok (.addImmediate x kk) := by
  rw [decode_op_7 _ (Word.op_formatXKK _ _ _), Word.x_formatXKK, Word.kk_formatXKK]

theorem decode_formatXYN_8 (x y n : Nibble) : decode (0x8#4 ++ x ++ y ++ n) = decodeClass8 x y n := by
  rw [decode_op_8 _ (Word.op_formatXYN _ _ _ _), Word.x_formatXYN, Word.y_formatXYN, Word.n_formatXYN]

end Sys2Proof

namespace Sys2Proof.Safety

open Sys2Proof.Machine

/-! Frames compose. -/

theorem Piece.same_trans {s t u : State} {p : Piece} (hst : p.same s t) (htu : p.same t u) : p.same s u := by
  cases p with
  | memory => exact fun a => (htu a).trans (hst a)
  | framebuffer => exact fun px py => (htu px py).trans (hst px py)
  | keys => exact fun k => (htu k).trans (hst k)
  | inputs =>
    obtain ⟨hrnd, hdraws, hinbox⟩ := hst
    obtain ⟨hrnd', hdraws', hinbox'⟩ := htu
    exact ⟨hrnd'.trans hrnd, hdraws'.trans hdraws, hinbox'.trans hinbox⟩
  | index | pc | stack | delayTimer | soundTimer | run | parameters => exact Eq.trans htu hst

theorem OnlyChanges.trans {regs regs' : List Nibble} {pieces pieces' : List Piece} {s t u : State}
    (hst : OnlyChanges regs pieces s t) (htu : OnlyChanges regs' pieces' t u) :
    OnlyChanges (regs ++ regs') (pieces ++ pieces') s u := by
  obtain ⟨hreg, hpiece⟩ := hst
  obtain ⟨hreg', hpiece'⟩ := htu
  refine ⟨fun r hr => ?_, fun p hp => ?_⟩
  · rw [List.mem_append, not_or] at hr
    exact (hreg' r hr.2).trans (hreg r hr.1)
  · rw [List.mem_append, not_or] at hp
    exact Piece.same_trans (hpiece p hp.1) (hpiece' p hp.2)

end Sys2Proof.Safety

namespace Sys2Proof.Machine

open Sys2Proof.Safety

/-! Writing one register. -/

theorem State.reg_setReg_same (s : State) (x : Nibble) (v : Byte) : (s.setReg x v).reg x = v := by
  rw [State.reg_setReg, if_pos rfl]

/-- The frame of the write: the named register alone can read differently. -/
theorem State.setReg_onlyChanges_reg (s : State) (x : Nibble) (v : Byte) : OnlyChanges [x] [] s (s.setReg x v) := by
  refine ⟨fun r hr => ?_, fun p _ => ?_⟩
  · rw [State.reg_setReg, if_neg fun h => hr (List.mem_singleton.2 h.symm)]
  · cases p with
    | memory => exact s.setReg_load x v
    | index => exact s.setReg_I x v
    | pc => exact s.setReg_pc x v
    | stack => exact s.setReg_stack x v
    | delayTimer => exact s.setReg_DT x v
    | soundTimer => exact s.setReg_ST x v
    | framebuffer => exact s.setReg_cell x v
    | keys => exact s.setReg_key x v
    | run => exact s.setReg_run x v
    | parameters => exact s.setReg_cfg x v
    | inputs => exact ⟨s.setReg_rnd x v, s.setReg_draws x v, s.setReg_inbox x v⟩

theorem State.advance_onlyChanges_pc (s : State) : OnlyChanges [] [.pc] s s.advance :=
  s.setPc_onlyChanges_pc _

theorem State.setReg_advance_onlyChanges (s : State) (x : Nibble) (v : Byte) :
    OnlyChanges [x] [.pc] s (s.setReg x v).advance :=
  (s.setReg_onlyChanges_reg x v).trans (State.advance_onlyChanges_pc _)

/-! The three instructions: a write to `V[x]`, then the advance. -/

theorem exec_setImmediate (x : Nibble) (kk : Byte) (s : State) :
    exec (.setImmediate x kk) s = .next (s.setReg x kk).advance := rfl

theorem exec_addImmediate (x : Nibble) (kk : Byte) (s : State) :
    exec (.addImmediate x kk) s = .next (s.setReg x (s.reg x + kk)).advance := rfl

theorem exec_copy (x y : Nibble) (s : State) : exec (.copy x y) s = .next (s.setReg x (s.reg y)).advance := rfl

/-- R162: the sum kept in `V[x]` is the one modulo 256, its carry lost. -/
theorem State.toNat_reg_setReg_add (s : State) (x : Nibble) (a b : Byte) :
    ((s.setReg x (a + b)).reg x).toNat = (a.toNat + b.toNat) % 256 := by
  rw [State.reg_setReg_same, BitVec.toNat_add]

/-- Settles O36: the three words, then the value each instruction writes to `V[x]`, with the frame of the write and the
advance. -/
theorem setAddAndCopy : Obligations.SetAddAndCopy := by
  unfold Obligations.SetAddAndCopy
  exact fun s x y kk => ⟨decode_formatXKK_6 x kk, decode_formatXKK_7 x kk,
    (decode_formatXYN_8 x y 0).trans (if_pos rfl),
    ⟨_, exec_setImmediate x kk s, s.reg_setReg_same x _, rfl, s.setReg_advance_onlyChanges x _⟩,
    ⟨_, exec_addImmediate x kk s, s.toNat_reg_setReg_add x _ _, rfl, s.setReg_advance_onlyChanges x _⟩,
    ⟨_, exec_copy x y s, s.reg_setReg_same x _, rfl, s.setReg_advance_onlyChanges x _⟩⟩

end Sys2Proof.Machine
end

section
/-! ClearDisplay (spec/43_display.md R190): its word, the frame of a write of the framebuffer, and the clear with its
advance. -/

namespace Sys2Proof

/-- R98: in the 0x0 class the address alone chooses the Operation. -/
theorem decode_formatNNN_0 (nnn : Addr12) : decode (0x0#4 ++ nnn) = .ok (decodeClass0 nnn) := by
  rw [decode_op_0 _ (Word.op_formatNNN _ _), Word.nnn_formatNNN]

theorem decode_clearDisplay : decode 0x00E0 = .ok .clearDisplay :=
  (decode_formatNNN_0 0x0E0).trans (congrArg _ (if_pos rfl))

end Sys2Proof

namespace Sys2Proof.Machine

open Sys2Proof.Safety

/-- The frame of the write: the framebuffer alone can read differently. -/
theorem State.setGfx_onlyChanges_framebuffer (s : State) (g : Bitmap) :
    OnlyChanges [] [.framebuffer] s (s.setGfx g) := by
  refine ⟨fun r _ => s.setGfx_reg g r, fun p hp => ?_⟩
  cases p with
  | framebuffer => simp at hp
  | memory => exact s.setGfx_load g
  | index => exact s.setGfx_I g
  | pc => exact s.setGfx_pc g
  | stack => exact s.setGfx_stack g
  | delayTimer => exact s.setGfx_DT g
  | soundTimer => exact s.setGfx_ST g
  | keys => exact s.setGfx_key g
  | run => exact s.setGfx_run g
  | parameters => exact s.setGfx_cfg g
  | inputs => exact ⟨s.setGfx_rnd g, s.setGfx_draws g, s.setGfx_inbox g⟩

theorem State.setGfx_advance_onlyChanges (s : State) (g : Bitmap) :
    OnlyChanges [] [.pc, .framebuffer] s (s.setGfx g).advance := by
  obtain ⟨hreg, hpiece⟩ :=
    (s.setGfx_onlyChanges_framebuffer g).trans (State.advance_onlyChanges_pc (s.setGfx g))
  exact ⟨hreg, fun p hp => hpiece p (by simpa [and_comm] using hp)⟩

theorem exec_clearDisplay (s : State) :
    exec .clearDisplay s = .next (s.setGfx (Vector.replicate 32 0)).advance := rfl

/-- Settles O42: the word, then the blank framebuffer with the frame of its write and the advance. -/
theorem clearDisplayZeroesEveryCell : Obligations.ClearDisplayZeroesEveryCell := by
  unfold Obligations.ClearDisplayZeroesEveryCell
  exact ⟨decode_clearDisplay, fun s => ⟨_, exec_clearDisplay s,
    fun px py _ _ => Bitmap.cell_replicate_zero px py, rfl, s.setGfx_advance_onlyChanges _⟩⟩

end Sys2Proof.Machine
end

section
/-! Index register and memory runs (spec/45_index_memory.md R220, R223): the words, the frames of a write of `I` and of a
run of stores, what a run of stores leaves in memory, and the digits of a byte. -/

namespace Sys2Proof

/-! The decoder on a word put together from its fields. -/

theorem decode_formatNNN_A (nnn : Addr12) : decode (0xA#4 ++ nnn) = .ok (.setIndex nnn) := by
  rw [decode_op_A _ (Word.op_formatNNN _ _), Word.nnn_formatNNN]

theorem decode_formatXKK_F (x : Nibble) (kk : Byte) : decode (0xF#4 ++ x ++ kk) = decodeClassF x kk := by
  rw [decode_op_F _ (Word.op_formatXKK _ _ _), Word.x_formatXKK, Word.kk_formatXKK]

end Sys2Proof

namespace Sys2Proof.Safety

open Sys2Proof.Machine

/-! Frames: nothing changed, more allowed to change, and the advance that ends an instruction. -/

theorem OnlyChanges.refl (regs : List Nibble) (pieces : List Piece) (s : State) : OnlyChanges regs pieces s s := by
  refine ⟨fun _ _ => rfl, fun p _ => ?_⟩
  cases p with
  | memory | keys => exact fun _ => rfl
  | framebuffer => exact fun _ _ => rfl
  | inputs => exact ⟨rfl, rfl, rfl⟩
  | index | pc | stack | delayTimer | soundTimer | run | parameters => rfl

theorem OnlyChanges.mono {regs regs' : List Nibble} {pieces pieces' : List Piece} {s t : State}
    (h : OnlyChanges regs pieces s t) (hregs : regs ⊆ regs') (hpieces : pieces ⊆ pieces') :
    OnlyChanges regs' pieces' s t := by
  obtain ⟨hreg, hpiece⟩ := h
  exact ⟨fun r hr => hreg r fun hmem => hr (hregs hmem), fun p hp => hpiece p fun hmem => hp (hpieces hmem)⟩

/-- The advance (R124) adds `pc` to what an instruction changes. -/
theorem OnlyChanges.advance {regs : List Nibble} {pieces : List Piece} {s t : State}
    (h : OnlyChanges regs pieces s t) : OnlyChanges regs (.pc :: pieces) s t.advance :=
  (h.trans t.advance_onlyChanges_pc).mono (by simp) (by simp)

end Sys2Proof.Safety

namespace Sys2Proof.Machine

open Sys2Proof.Safety

/-! Writing `I`. -/

/-- The frame of the write: the index register alone can read differently. -/
theorem State.setI_onlyChanges_index (s : State) (v : Word) : OnlyChanges [] [.index] s (s.setI v) := by
  refine ⟨fun r _ => s.setI_reg v r, fun p hp => ?_⟩
  cases p with
  | index => simp at hp
  | memory => exact s.setI_load v
  | pc => exact s.setI_pc v
  | stack => exact s.setI_stack v
  | delayTimer => exact s.setI_DT v
  | soundTimer => exact s.setI_ST v
  | framebuffer => exact s.setI_cell v
  | keys => exact s.setI_key v
  | run => exact s.setI_run v
  | parameters => exact s.setI_cfg v
  | inputs => exact ⟨s.setI_rnd v, s.setI_draws v, s.setI_inbox v⟩

theorem exec_setIndex (nnn : Addr12) (s : State) :
    exec (.setIndex nnn) s = .next (s.setI (addr16 nnn)).advance := rfl

/-- Settles O51: the word, then the widened address with the frame of its write and the advance. -/
theorem setIndexLoadsTheAddress : Obligations.SetIndexLoadsTheAddress := by
  unfold Obligations.SetIndexLoadsTheAddress
  exact fun s nnn => ⟨decode_formatNNN_A nnn, _, exec_setIndex nnn s, addr16_toNat nnn, rfl,
    (s.setI_onlyChanges_index _).advance⟩

/-! Runs of stores. -/

/-- The addresses of a run wrap past 0xFFF (R76). -/
theorem State.reduce_indexed_eq_mod (s : State) (i : Nat) : reduce (s.indexed i) = (s.I.toNat + i) % 4096 :=
  (s.reduce_indexed i).trans (Nat.mod_add_mod _ _ _)

theorem State.load_storeRun_indexed (s : State) (f : Nat → Byte) {i n : Nat} (hi : i < n) (hn : n ≤ memSize) :
    (s.storeRun f n).load (s.indexed i) = f i := by
  rw [State.load_storeRun s f hn, State.offset_indexed s (by omega), if_pos hi]

theorem State.storeRun_memorySameOutside (s : State) (f : Nat → Byte) {n : Nat} (hn : n ≤ memSize) :
    MemorySameOutside n s (s.storeRun f n) := by
  intro a houtside
  have hoffset : ¬ s.offset a < n := fun h =>
    houtside _ h ((s.reduce_indexed_eq_iff a (h.trans_le hn)).mpr rfl).symm
  rw [State.load_storeRun s f hn, if_neg hoffset]

/-- The frame of the run: each of its stores changes memory alone. -/
theorem State.storeRun_onlyChanges_memory (s : State) (f : Nat → Byte) (n : Nat) :
    OnlyChanges [] [.memory] s (s.storeRun f n) := by
  induction n with
  | zero => exact OnlyChanges.refl _ _ s
  | succ n ih =>
    rw [State.storeRun_succ]
    exact (ih.trans (State.store_onlyChanges_memory _ _ _)).mono (by simp) (by simp)

theorem State.storeRun_advance_pc (s : State) (f : Nat → Byte) (n : Nat) :
    (s.storeRun f n).advance.pc = s.pc + 2 := by
  rw [State.advance_pc, State.storeRun_pc]

/-! The digits of a byte (R223): each is below 256, so the byte that holds it is the digit itself. -/

theorem toNat_bcdDigit_zero (v : Byte) : (bcdDigit v 0).toNat = v.toNat / 100 :=
  Nat.mod_eq_of_lt (by have := v.isLt; omega)

theorem toNat_bcdDigit_one (v : Byte) : (bcdDigit v 1).toNat = v.toNat / 10 % 10 :=
  Nat.mod_eq_of_lt (by omega)

theorem toNat_bcdDigit_two (v : Byte) : (bcdDigit v 2).toNat = v.toNat % 10 :=
  Nat.mod_eq_of_lt (by omega)

theorem exec_readRegisterAsBCD (x : Nibble) (s : State) :
    exec (.readRegisterAsBCD x) s = .next (s.storeRun (bcdDigit (s.reg x)) 3).advance := rfl

/-- Settles O53: the word, then the run of three stores: its three digits, its addresses and its frame. -/
theorem bcdStoresThreeDigits : Obligations.BcdStoresThreeDigits := by
  unfold Obligations.BcdStoresThreeDigits
  intro s x
  have hrun : 3 ≤ memSize := by decide
  have hload (i : Nat) (hi : i < 3) :
      (s.storeRun (bcdDigit (s.reg x)) 3).advance.load (s.indexed i) = bcdDigit (s.reg x) i :=
    s.load_storeRun_indexed _ hi hrun
  refine ⟨decode_formatXKK_F x 0x33, _, exec_readRegisterAsBCD x s, ?_, ?_, ?_, fun i _ => s.reduce_indexed_eq_mod i,
    s.storeRun_memorySameOutside _ hrun, s.storeRun_advance_pc _ _, (s.storeRun_onlyChanges_memory _ _).advance⟩
  · rw [hload 0 (by decide), toNat_bcdDigit_zero]
  · rw [hload 1 (by decide), toNat_bcdDigit_one]
  · rw [hload 2 (by decide), toNat_bcdDigit_two]

end Sys2Proof.Machine
end

section
/-! The round trip of decoder and encoder (spec/30_encoding.md R91, R96, R98, R99): the words of the classes not met before,
the decoder on an encoded instruction, the encoder on a decoded word, and the decoder's struct. -/

namespace Sys2Proof

/-! The decoder on a word put together from its fields. -/

theorem decode_formatNNN_2 (nnn : Addr12) : decode (0x2#4 ++ nnn) = .ok (.callSubroutine nnn) := by
  rw [decode_op_2 _ (Word.op_formatNNN _ _), Word.nnn_formatNNN]

theorem decode_formatNNN_B (nnn : Addr12) : decode (0xB#4 ++ nnn) = .ok (.jumpPlusV0 nnn) := by
  rw [decode_op_B _ (Word.op_formatNNN _ _), Word.nnn_formatNNN]

theorem decode_formatXKK_C (x : Nibble) (kk : Byte) : decode (0xC#4 ++ x ++ kk) = .ok (.randomMask x kk) := by
  rw [decode_op_C _ (Word.op_formatXKK _ _ _), Word.x_formatXKK, Word.kk_formatXKK]

theorem decode_formatXYN_D (x y n : Nibble) : decode (0xD#4 ++ x ++ y ++ n) = .ok (.drawSprite x y n) := by
  rw [decode_op_D _ (Word.op_formatXYN _ _ _ _), Word.x_formatXYN, Word.y_formatXYN, Word.n_formatXYN]

theorem decode_formatXKK_E (x : Nibble) (kk : Byte) : decode (0xE#4 ++ x ++ kk) = decodeClassE x kk := by
  rw [decode_op_E _ (Word.op_formatXKK _ _ _), Word.x_formatXKK, Word.kk_formatXKK]

theorem decode_returnFromSubroutine : decode 0x00EE = .ok .returnFromSubroutine :=
  (decode_formatNNN_0 0x0EE).trans (congrArg _ ((if_neg (by decide)).trans (if_pos rfl)))

theorem decodeClass0_eq_call {nnn : Addr12} (hclear : nnn ≠ 0x0E0) (hreturn : nnn ≠ 0x0EE) :
    decodeClass0 nnn = .call nnn :=
  (if_neg hclear).trans (if_neg hreturn)

theorem decode_call {nnn : Addr12} (hclear : nnn ≠ 0x0E0) (hreturn : nnn ≠ 0x0EE) :
    decode (0x0#4 ++ nnn) = .ok (.call nnn) :=
  (decode_formatNNN_0 nnn).trans (congrArg _ (decodeClass0_eq_call hclear hreturn))

theorem wellFormed_call_iff (nnn : Addr12) :
    (Instr.call nnn).wellFormed = true ↔ nnn ≠ 0x0E0 ∧ nnn ≠ 0x0EE := by
  simp [Instr.wellFormed]

/-! Decode after encode. -/

/-- Format by format; only the 0x0 class needs well-formedness (R98). -/
theorem decode_encode {i : Instr} (hwf : i.wellFormed = true) : decode (encode i) = .ok i := by
  cases i with
  | clearDisplay => exact decode_clearDisplay
  | returnFromSubroutine => exact decode_returnFromSubroutine
  | call nnn =>
    obtain ⟨hclear, hreturn⟩ := (wellFormed_call_iff nnn).mp hwf
    exact decode_call hclear hreturn
  | jump nnn => exact decode_formatNNN_1 nnn
  | callSubroutine nnn => exact decode_formatNNN_2 nnn
  | skipIfEqualImmediate x kk => exact decode_formatXKK_3 x kk
  | skipIfNotEqualImmediate x kk => exact decode_formatXKK_4 x kk
  | skipIfRegistersEqual x y => exact decode_formatXYN_5 x y 0
  | setImmediate x kk => exact decode_formatXKK_6 x kk
  | addImmediate x kk => exact decode_formatXKK_7 x kk
  | copy x y | or x y | and x y | xor x y | addWithCarry x y | subtractWithBorrow x y | shiftRight x y
  | reverseSubtract x y | shiftLeft x y => exact decode_formatXYN_8 x y _
  | skipIfRegistersNotEqual x y => exact decode_formatXYN_9 x y 0
  | setIndex nnn => exact decode_formatNNN_A nnn
  | jumpPlusV0 nnn => exact decode_formatNNN_B nnn
  | randomMask x kk => exact decode_formatXKK_C x kk
  | drawSprite x y n => exact decode_formatXYN_D x y n
  | skipIfKeyDown x | skipIfKeyUp x => exact decode_formatXKK_E x _
  | readDelayTimer x | blockOnKeyPress x | setDelayTimer x | setSoundTimer x | addToIndexRegister x | useSprite x
  | readRegisterAsBCD x | dumpRegisters x | fillRegisters x => exact decode_formatXKK_F x _

/-- The byte decoder reads a word laid out high byte first (R71) as the word decoder does. -/
theorem decodeBytes_hiByte_loByte {w : Word} {i : Instr} (h : decode w = .ok i) (rest : List Byte) :
    decodeBytes (w.hiByte :: w.loByte :: rest) = .ok (i, rest) := by
  simp [decodeBytes, h]

theorem decodeTableWord_toNat {w : Word} {i : Instr} (h : decode w = .ok i) :
    decodeTableWord 16 w.toNat = some i := by
  simp [decodeTableWord, Nat.mod_eq_of_lt w.isLt, decodeBytes_hiByte_loByte h []]

/-- Settles O3: the word, and its two other readings through it. -/
theorem decodeInvertsEncode : Obligations.DecodeInvertsEncode := by
  unfold Obligations.DecodeInvertsEncode
  exact fun i hwf => ⟨decode_encode hwf, decodeBytes_hiByte_loByte (decode_encode hwf),
    decodeTableWord_toNat (decode_encode hwf)⟩

/-! Encode after decode: class by class, the encoder puts the fields back under the class's own nibbles. -/

theorem encode_decodeClass0 (nnn : Addr12) :
    encode (decodeClass0 nnn) = 0x0#4 ++ nnn ∧ (decodeClass0 nnn).wellFormed = true := by
  by_cases hclear : nnn = 0x0E0
  · subst hclear; decide
  by_cases hreturn : nnn = 0x0EE
  · subst hreturn; decide
  rw [decodeClass0_eq_call hclear hreturn]
  exact ⟨rfl, (wellFormed_call_iff nnn).mpr ⟨hclear, hreturn⟩⟩

theorem encode_of_decodeClass8 {x y n : Nibble} {i : Instr} (h : decodeClass8 x y n = .ok i) :
    encode i = 0x8#4 ++ x ++ y ++ n ∧ i.wellFormed = true := by
  unfold decodeClass8 at h
  split_ifs at h <;> cases h <;> subst n <;> exact ⟨rfl, rfl⟩

theorem encode_of_decodeClassE {x : Nibble} {kk : Byte} {i : Instr} (h : decodeClassE x kk = .ok i) :
    encode i = 0xE#4 ++ x ++ kk ∧ i.wellFormed = true := by
  unfold decodeClassE at h
  split_ifs at h <;> cases h <;> subst kk <;> exact ⟨rfl, rfl⟩

theorem encode_of_decodeClassF {x : Nibble} {kk : Byte} {i : Instr} (h : decodeClassF x kk = .ok i) :
    encode i = 0xF#4 ++ x ++ kk ∧ i.wellFormed = true := by
  unfold decodeClassF at h
  split_ifs at h <;> cases h <;> subst kk <;> exact ⟨rfl, rfl⟩

/-- The top nibble chooses the class; each class puts its own fields back, which make up the word. -/
theorem encode_of_decode {w : Word} {i : Instr} (h : decode w = .ok i) : encode i = w ∧ i.wellFormed = true := by
  rcases Nibble.cases w.op with ho | ho | ho | ho | ho | ho | ho | ho | ho | ho | ho | ho | ho | ho | ho | ho
  · rw [decode_op_0 w ho] at h; cases h
    rw [← w.eq_formatNNN, Word.nnn_formatNNN, ho]; exact encode_decodeClass0 w.nnn
  · rw [decode_op_1 w ho] at h; cases h; exact ⟨(ho ▸ w.eq_formatNNN :), rfl⟩
  · rw [decode_op_2 w ho] at h; cases h; exact ⟨(ho ▸ w.eq_formatNNN :), rfl⟩
  · rw [decode_op_3 w ho] at h; cases h; exact ⟨(ho ▸ w.eq_formatXKK :), rfl⟩
  · rw [decode_op_4 w ho] at h; cases h; exact ⟨(ho ▸ w.eq_formatXKK :), rfl⟩
  · rw [decode_op_5 w ho] at h
    split_ifs at h with hn
    cases h; exact ⟨(hn ▸ ho ▸ w.eq_formatXYN :), rfl⟩
  · rw [decode_op_6 w ho] at h; cases h; exact ⟨(ho ▸ w.eq_formatXKK :), rfl⟩
  · rw [decode_op_7 w ho] at h; cases h; exact ⟨(ho ▸ w.eq_formatXKK :), rfl⟩
  · rw [decode_op_8 w ho] at h; simpa only [← ho, w.eq_formatXYN] using encode_of_decodeClass8 h
  · rw [decode_op_9 w ho] at h
    split_ifs at h with hn
    cases h; exact ⟨(hn ▸ ho ▸ w.eq_formatXYN :), rfl⟩
  · rw [decode_op_A w ho] at h; cases h; exact ⟨(ho ▸ w.eq_formatNNN :), rfl⟩
  · rw [decode_op_B w ho] at h; cases h; exact ⟨(ho ▸ w.eq_formatNNN :), rfl⟩
  · rw [decode_op_C w ho] at h; cases h; exact ⟨(ho ▸ w.eq_formatXKK :), rfl⟩
  · rw [decode_op_D w ho] at h; cases h; exact ⟨(ho ▸ w.eq_formatXYN :), rfl⟩
  · rw [decode_op_E w ho] at h; simpa only [← ho, w.eq_formatXKK] using encode_of_decodeClassE h
  · rw [decode_op_F w ho] at h; simpa only [← ho, w.eq_formatXKK] using encode_of_decodeClassF h

/-- Settles O4, class by class. -/
theorem encodeInvertsDecode : Obligations.EncodeInvertsDecode := by
  unfold Obligations.EncodeInvertsDecode
  exact fun _ _ h => encode_of_decode h

/-! The decoder's struct (R99). -/

theorem tag_toNat_le (i : Instr) : i.tag.toNat ≤ 34 := by
  cases i <;> simp [Instr.tag]

/-- The class of the variant with a given tag. -/
def opOfTag (tag : BitVec 6) : Nibble :=
  [0x0, 0x0, 0x0, 0x1, 0x2, 0x3, 0x4, 0x5, 0x6, 0x7, 0x8, 0x8, 0x8, 0x8, 0x8, 0x8, 0x8, 0x8, 0x8, 0x9, 0xA, 0xB, 0xC, 0xD,
    0xE, 0xE, 0xF, 0xF, 0xF, 0xF, 0xF, 0xF, 0xF, 0xF, 0xF].getD tag.toNat 0x0

/-- The tag alone says the class of the encoded word. -/
theorem op_encode (i : Instr) : (encode i).op = opOfTag i.tag := by
  cases i with
  | clearDisplay | returnFromSubroutine => decide
  | call | jump | callSubroutine | setIndex | jumpPlusV0 => exact Word.op_formatNNN _ _
  | skipIfRegistersEqual | copy | or | and | xor | addWithCarry | subtractWithBorrow | shiftRight | reverseSubtract
  | shiftLeft | skipIfRegistersNotEqual | drawSprite => exact Word.op_formatXYN _ _ _ _
  | _ => exact Word.op_formatXKK _ _ _

theorem decoderOutput_of_decode_ok {w : Word} {i : Instr} (h : decode w = .ok i) :
    (decoderOutput w).valid = true ∧ (decoderOutput w).tag = i.tag := by
  simp [decoderOutput, h]

theorem decoderOutput_of_decode_error {w : Word} {e : DecodeError} (h : decode w = .error e) :
    (decoderOutput w).valid = false ∧ (decoderOutput w).tag = 63 := by
  simp [decoderOutput, h]

theorem decoderOutput_nnn (w : Word) : (decoderOutput w).nnn = w.nnn := rfl

/-- In a valid output the tag gives the word's class. -/
theorem op_eq_opOfTag {w : Word} (h : (decoderOutput w).valid = true) : w.op = opOfTag (decoderOutput w).tag := by
  cases hdec : decode w with
  | error e => rw [(decoderOutput_of_decode_error hdec).1] at h; cases h
  | ok i => rw [(decoderOutput_of_decode_ok hdec).2, ← op_encode, (encode_of_decode hdec).1]

/-- The class and the low twelve bits are the whole word. -/
theorem eq_of_decoderOutput_eq {v w : Word} (hvalid : (decoderOutput v).valid = true)
    (h : decoderOutput v = decoderOutput w) : v = w := by
  have hop : v.op = w.op := by rw [op_eq_opOfTag hvalid, op_eq_opOfTag (h ▸ hvalid), h]
  have hnnn : v.nnn = w.nnn := by rw [← decoderOutput_nnn v, ← decoderOutput_nnn w, h]
  rw [← v.eq_formatNNN, ← w.eq_formatNNN, hop, hnnn]

/-- Settles O6: the two outcomes of decode, the driven fields, and the word from class and address. -/
theorem decoderStructDeterminesWord : Obligations.DecoderStructDeterminesWord := by
  unfold Obligations.DecoderStructDeterminesWord
  refine ⟨fun w i h => ?_, fun w e h => decoderOutput_of_decode_error h, fun w => ⟨rfl, rfl, rfl, rfl, rfl⟩,
    fun v w hvalid h => eq_of_decoderOutput_eq hvalid h⟩
  obtain ⟨hvalid, htag⟩ := decoderOutput_of_decode_ok h
  exact ⟨hvalid, htag, htag ▸ tag_toNat_le i⟩

/-- Settles O2: closed words, each by running the decoder. -/
theorem specWordsDecode : Obligations.SpecWordsDecode := by
  unfold Obligations.SpecWordsDecode
  decide

/-- Settles O30: the two classes of calls, the 0x0 class but for its two exact words. -/
theorem callEncodings : Obligations.CallEncodings := by
  unfold Obligations.CallEncodings
  exact fun nnn => ⟨decode_formatNNN_2 nnn, decode_call⟩

end Sys2Proof
end

section
/-! Memory (spec/10_state.md R42, spec/20_memory.md R71, R82): canonical memories are determined by what they read, and a
fetch sees the stores before it. -/

namespace Sys2Proof.Machine

/-- What a canonical memory with a first entry is made of. -/
theorem Memory.wfFrom_cons_iff {d : Nat → Byte} {lo k : Nat} {b : Byte} {m : Memory} :
    Memory.wfFrom d lo ((k, b) :: m) = true ↔
      lo ≤ k ∧ k < memSize ∧ b ≠ d k ∧ Memory.wfFrom d (k + 1) m = true := by
  simp only [Memory.wfFrom, Bool.and_eq_true, decide_eq_true_eq, and_assoc]

theorem Memory.read_cons_same (d : Nat → Byte) (k : Nat) (b : Byte) (m : Memory) :
    Memory.read d ((k, b) :: m) k = b := if_pos rfl

theorem Memory.read_cons_of_ne (d : Nat → Byte) {k a : Nat} (h : k ≠ a) (b : Byte) (m : Memory) :
    Memory.read d ((k, b) :: m) a = Memory.read d m a := if_neg h

/-- At the first entry of a canonical memory, one whose entries all lie above reads otherwise: it still has the reset byte
there, which no entry holds. -/
theorem Memory.read_ne_of_lt_first {d : Nat → Byte} {lo lo' k : Nat} {b : Byte} {m m' : Memory}
    (hm : Memory.wfFrom d lo ((k, b) :: m) = true) (hm' : Memory.wfFrom d lo' m' = true) (hlt : k < lo') :
    Memory.read d ((k, b) :: m) k ≠ Memory.read d m' k := by
  obtain ⟨-, -, hb, -⟩ := Memory.wfFrom_cons_iff.mp hm
  rwa [Memory.read_cons_same, Memory.read_below hm' hlt]

/-- Canonical memories that read alike are equal: they have the same first entry, and what follows it reads alike. -/
theorem Memory.eq_of_read_eq {d : Nat → Byte} {m m' : Memory} {lo : Nat} (hm : Memory.wfFrom d lo m = true)
    (hm' : Memory.wfFrom d lo m' = true)
    (hread : ∀ a, a < memSize → Memory.read d m a = Memory.read d m' a) : m = m' := by
  induction m generalizing m' lo with
  | nil =>
    cases m' with
    | nil => rfl
    | cons c m' =>
      obtain ⟨k', b'⟩ := c
      obtain ⟨-, hk', hb', -⟩ := Memory.wfFrom_cons_iff.mp hm'
      exact absurd ((hread k' hk').trans (Memory.read_cons_same d k' b' m')).symm hb'
  | cons c m ih =>
    obtain ⟨k, b⟩ := c
    obtain ⟨hlo, hk, hb, htail⟩ := Memory.wfFrom_cons_iff.mp hm
    cases m' with
    | nil => exact absurd ((Memory.read_cons_same d k b m).symm.trans (hread k hk)) hb
    | cons c' m' =>
      obtain ⟨k', b'⟩ := c'
      obtain ⟨hlo', hk', hb', htail'⟩ := Memory.wfFrom_cons_iff.mp hm'
      rcases lt_trichotomy k k' with hlt | rfl | hlt
      · have habove : Memory.wfFrom d k' ((k', b') :: m') = true :=
          Memory.wfFrom_cons_iff.mpr ⟨le_rfl, hk', hb', htail'⟩
        exact absurd (hread k hk) (Memory.read_ne_of_lt_first hm habove hlt)
      · have hbyte := hread k hk
        rw [Memory.read_cons_same, Memory.read_cons_same] at hbyte
        have hrest : ∀ a, a < memSize → Memory.read d m a = Memory.read d m' a := by
          intro a ha
          by_cases hka : k = a
          · subst hka
            rw [Memory.read_below htail (Nat.lt_succ_self k), Memory.read_below htail' (Nat.lt_succ_self k)]
          · rw [← Memory.read_cons_of_ne d hka b m, hread a ha, Memory.read_cons_of_ne d hka]
        rw [hbyte, ih htail htail' hrest]
      · have habove : Memory.wfFrom d k ((k, b) :: m) = true :=
          Memory.wfFrom_cons_iff.mpr ⟨le_rfl, hk, hb, htail⟩
        exact absurd (hread k' hk').symm (Memory.read_ne_of_lt_first hm' habove hlt)

/-- Settles O8, by induction on the two lists at once. -/
theorem canonicalMemoriesAreEqual : Obligations.CanonicalMemoriesAreEqual := by
  unfold Obligations.CanonicalMemoriesAreEqual
  exact fun _ _ _ hm hm' hread => Memory.eq_of_read_eq hm hm' hread

/-! The fetch. -/

/-- The two bytes of a fetch are different ones, around the top of memory too (R72). -/
theorem reduce_succ_ne (a : Word) : reduce (a + 1) ≠ reduce a := by
  have hone : (1 : Word).toNat = 1 := rfl
  rw [reduce_eq_mod, reduce_eq_mod, BitVec.toNat_add, hone]
  omega

theorem State.fetchWord_store_store (s : State) (hi lo : Byte) :
    ((s.store s.pc hi).store (s.pc + 1) lo).fetchWord = wordOfBytes hi lo := by
  rw [State.fetchWord_eq_wordOfBytes]
  simp only [State.store_pc, State.load_store, if_neg (reduce_succ_ne s.pc), if_true]

/-- Settles O9: the fetch after two stores, and the fetch around the top of memory. -/
theorem fetchSeesStores : Obligations.FetchSeesStores := by
  unfold Obligations.FetchSeesStores
  refine ⟨fun s hi lo => by rw [State.fetchWord_store_store, wordOfBytes_toNat], fun s hpc => ?_⟩
  have hwrap : s.load (0x0FFF + 1) = s.load 0x0000 := s.load_congr (by decide)
  rw [State.fetchWord_eq_wordOfBytes, wordOfBytes_toNat, hpc, hwrap]

end Sys2Proof.Machine
end

section
/-! The frames of the operations not met before: what each can change, with every other register and piece as before. -/

namespace Sys2Proof.Machine

open Sys2Proof.Safety

theorem State.setResultFlag_onlyChanges_regs (s : State) (x : Nibble) (r f : Byte) :
    OnlyChanges [x, VF] [] s (s.setResultFlag x r f) :=
  (s.setReg_onlyChanges_reg x r).trans ((s.setReg x r).setReg_onlyChanges_reg VF f)

theorem State.push_onlyChanges_stack (s : State) (v : Word) : OnlyChanges [] [.stack] s (s.push v) := by
  refine ⟨fun r _ => s.push_reg v r, fun p hp => ?_⟩
  cases p with
  | stack => simp at hp
  | memory => exact s.push_load v
  | index => exact s.push_I v
  | pc => exact s.push_pc v
  | delayTimer => exact s.push_DT v
  | soundTimer => exact s.push_ST v
  | framebuffer => exact s.push_cell v
  | keys => exact s.push_key v
  | run => exact s.push_run v
  | parameters => exact s.push_cfg v
  | inputs => exact ⟨s.push_rnd v, s.push_draws v, s.push_inbox v⟩

/-- A completed call: push, then jump. -/
theorem State.push_setPc_onlyChanges (s : State) (v p : Word) :
    OnlyChanges [] [.pc, .stack] s ((s.push v).setPc p) :=
  ((s.push_onlyChanges_stack v).trans ((s.push v).setPc_onlyChanges_pc p)).mono (by simp) (by simp)

/-- A completed return: the stack and `pc` at once. -/
theorem State.pop_onlyChanges (s : State) (rest : List Word) (v : Word) :
    OnlyChanges [] [.pc, .stack] s { s with stack := rest, pc := v } := by
  refine ⟨fun _ _ => rfl, fun p hp => ?_⟩
  cases p with
  | pc | stack => simp at hp
  | memory | keys => exact fun _ => rfl
  | framebuffer => exact fun _ _ => rfl
  | inputs => exact ⟨rfl, rfl, rfl⟩
  | index | delayTimer | soundTimer | run | parameters => rfl

theorem State.setDT_onlyChanges_delayTimer (s : State) (v : Byte) : OnlyChanges [] [.delayTimer] s (s.setDT v) := by
  refine ⟨fun r _ => s.setDT_reg v r, fun p hp => ?_⟩
  cases p with
  | delayTimer => simp at hp
  | memory => exact s.setDT_load v
  | index => exact s.setDT_I v
  | pc => exact s.setDT_pc v
  | stack => exact s.setDT_stack v
  | soundTimer => exact s.setDT_ST v
  | framebuffer => exact s.setDT_cell v
  | keys => exact s.setDT_key v
  | run => exact s.setDT_run v
  | parameters => exact s.setDT_cfg v
  | inputs => exact ⟨s.setDT_rnd v, s.setDT_draws v, s.setDT_inbox v⟩

theorem State.setST_onlyChanges_soundTimer (s : State) (v : Byte) : OnlyChanges [] [.soundTimer] s (s.setST v) := by
  refine ⟨fun r _ => s.setST_reg v r, fun p hp => ?_⟩
  cases p with
  | soundTimer => simp at hp
  | memory => exact s.setST_load v
  | index => exact s.setST_I v
  | pc => exact s.setST_pc v
  | stack => exact s.setST_stack v
  | delayTimer => exact s.setST_DT v
  | framebuffer => exact s.setST_cell v
  | keys => exact s.setST_key v
  | run => exact s.setST_run v
  | parameters => exact s.setST_cfg v
  | inputs => exact ⟨s.setST_rnd v, s.setST_draws v, s.setST_inbox v⟩

theorem State.setKey_onlyChanges_keys (s : State) (k : Nibble) (b : Bool) : OnlyChanges [] [.keys] s (s.setKey k b) := by
  refine ⟨fun r _ => s.setKey_reg k b r, fun p hp => ?_⟩
  cases p with
  | keys => simp at hp
  | memory => exact s.setKey_load k b
  | index => exact s.setKey_I k b
  | pc => exact s.setKey_pc k b
  | stack => exact s.setKey_stack k b
  | delayTimer => exact s.setKey_DT k b
  | soundTimer => exact s.setKey_ST k b
  | framebuffer => exact s.setKey_cell k b
  | run => exact s.setKey_run k b
  | parameters => exact s.setKey_cfg k b
  | inputs => exact ⟨s.setKey_rnd k b, s.setKey_draws k b, s.setKey_inbox k b⟩

/-- Any write of the run state: the key wait's begin and its end. -/
theorem State.withRun_onlyChanges_run (s : State) (r : RunState) : OnlyChanges [] [.run] s { s with run := r } := by
  refine ⟨fun _ _ => rfl, fun p hp => ?_⟩
  cases p with
  | run => simp at hp
  | memory | keys => exact fun _ => rfl
  | framebuffer => exact fun _ _ => rfl
  | inputs => exact ⟨rfl, rfl, rfl⟩
  | index | pc | stack | delayTimer | soundTimer | parameters => rfl

theorem State.awaitKey_onlyChanges_run (s : State) (t : Nibble) : OnlyChanges [] [.run] s (s.awaitKey t) :=
  s.withRun_onlyChanges_run _

/-- Any write of the environment's side: the input port, the counter and the inbox. -/
theorem State.withInputs_onlyChanges_inputs (s : State) (b : Byte) (d : Nat) (l : List Command) :
    OnlyChanges [] [.inputs] s { s with rnd := b, draws := d, inbox := l } := by
  refine ⟨fun _ _ => rfl, fun p hp => ?_⟩
  cases p with
  | inputs => simp at hp
  | memory | keys => exact fun _ => rfl
  | framebuffer => exact fun _ _ => rfl
  | index | pc | stack | delayTimer | soundTimer | run | parameters => rfl

theorem State.withRnd_onlyChanges_inputs (s : State) (b : Byte) : OnlyChanges [] [.inputs] s (s.withRnd b) :=
  s.withInputs_onlyChanges_inputs b s.draws s.inbox

theorem State.withEnvironment_onlyChanges_inputs (s : State) (d : Nat) (l : List Command) :
    OnlyChanges [] [.inputs] s (s.withEnvironment d l) :=
  s.withInputs_onlyChanges_inputs s.rnd d l

theorem State.tick_eq (s : State) : s.tick = (s.setDT (countDown s.DT)).setST (countDown s.ST) := rfl

theorem State.tick_onlyChanges_timers (s : State) : OnlyChanges [] [.delayTimer, .soundTimer] s s.tick := by
  rw [State.tick_eq]
  exact (s.setDT_onlyChanges_delayTimer _).trans (State.setST_onlyChanges_soundTimer _ _)

/-- The frame of a run of loads: each of them changes its own register alone. -/
theorem State.loadRun_onlyChanges_regs (s : State) (n : Nat) :
    OnlyChanges ((List.range n).map (BitVec.ofNat 4)) [] s (s.loadRun n) := by
  induction n with
  | zero => exact OnlyChanges.refl _ _ s
  | succ n ih =>
    rw [State.loadRun_succ, List.range_succ, List.map_append]
    exact ih.trans (State.setReg_onlyChanges_reg _ _ _)

end Sys2Proof.Machine
end

section
/-! Calls, returns and the computed jump (spec/41_flow.md R140 to R142, R144). -/

namespace Sys2Proof.Machine

open Sys2Proof.Safety

/-! Return. -/

theorem exec_returnFromSubroutine (s : State) : exec .returnFromSubroutine s = .next s.returnToCaller := rfl

theorem State.returnToCaller_of_nil {s : State} (h : s.stack = []) :
    s.returnToCaller = s.raise .stackUnderflow := by
  simp [State.returnToCaller, h]

theorem State.returnToCaller_of_append {s : State} {rest : List Word} {v : Word} (h : s.stack = rest ++ [v]) :
    s.returnToCaller = { s with stack := rest, pc := v } := by
  simp [State.returnToCaller, h]

/-- Settles O28: the word, then the two shapes of the stack. -/
theorem returnPopsTheLastAddress : Obligations.ReturnPopsTheLastAddress := by
  unfold Obligations.ReturnPopsTheLastAddress
  refine ⟨decode_returnFromSubroutine, fun s rest v hstack => ?_, fun s hstack => ?_⟩
  · rw [exec_returnFromSubroutine, State.returnToCaller_of_append hstack]
    exact ⟨_, rfl, rfl, rfl, s.pop_onlyChanges rest v⟩
  · rw [exec_returnFromSubroutine, State.returnToCaller_of_nil hstack]
    exact ⟨_, rfl, s.raise_haltedBy _⟩

/-! Call. -/

/-- The two calls are one operation (R141, R142). -/
theorem exec_call_or_callSubroutine {i : Instr} {nnn : Addr12} (h : i = .call nnn ∨ i = .callSubroutine nnn)
    (s : State) : exec i s = .next (s.callTo (addr16 nnn)) := by
  rcases h with rfl | rfl <;> rfl

theorem State.callTo_of_lt {s : State} (h : s.stack.length < s.cfg.stackDepth) (p : Word) :
    s.callTo p = (s.push (s.pc + 2)).setPc p := by
  obtain ⟨hfull, -⟩ | ⟨-, hcall⟩ := s.callTo_cases p
  · omega
  · exact hcall

theorem State.callTo_of_le {s : State} (h : s.cfg.stackDepth ≤ s.stack.length) (p : Word) :
    s.callTo p = s.raise .stackOverflow := by
  obtain ⟨-, hcall⟩ | ⟨hroom, -⟩ := s.callTo_cases p
  · exact hcall
  · omega

/-- Settles O29: the two calls at once, with room on the stack and without. -/
theorem callsPushTheNextAddress : Obligations.CallsPushTheNextAddress := by
  unfold Obligations.CallsPushTheNextAddress
  intro s nnn i hi
  rw [exec_call_or_callSubroutine hi]
  refine ⟨fun hroom => ?_, fun hfull => ?_⟩
  · rw [State.callTo_of_lt hroom]
    exact ⟨_, rfl, rfl, addr16_toNat nnn, s.push_setPc_onlyChanges _ _⟩
  · rw [State.callTo_of_le hfull.ge]
    exact ⟨_, rfl, s.raise_haltedBy _⟩

/-- The return takes off just what the call put on, so that it only moves `pc`. -/
theorem State.returnToCaller_push_setPc (s : State) (v p : Word) :
    ((s.push v).setPc p).returnToCaller = s.setPc v :=
  State.returnToCaller_of_append rfl

/-- Settles O31: the completed call, then the return from it. -/
theorem callThenReturnComesBack : Obligations.CallThenReturnComesBack := by
  unfold Obligations.CallThenReturnComesBack
  intro s nnn i hi hroom
  refine ⟨(s.push (s.pc + 2)).setPc (addr16 nnn), s.setPc (s.pc + 2), ?_, ?_, rfl, rfl, s.setPc_onlyChanges_pc _⟩
  · rw [exec_call_or_callSubroutine hi, State.callTo_of_lt hroom]
  · rw [exec_returnFromSubroutine, State.returnToCaller_push_setPc]

/-! The computed jump. -/

@[simp] theorem State.reg16_toNat (s : State) (x : Nibble) : (s.reg16 x).toNat = (s.reg x).toNat :=
  BitVec.toNat_setWidth_of_le (by decide)

/-- The sum of a 12-bit and an 8-bit number keeps all its bits in 16. -/
theorem toNat_addr16_add_reg16 (s : State) (nnn : Addr12) (x : Nibble) :
    (addr16 nnn + s.reg16 x).toNat = nnn.toNat + (s.reg x).toNat := by
  have hnnn := nnn.isLt
  have hx := (s.reg x).isLt
  rw [BitVec.toNat_add, addr16_toNat, State.reg16_toNat]
  omega

/-- Settles O33: the word, then the exact sum with the frame of a write of `pc`. -/
theorem jumpPlusV0GoesToTheSum : Obligations.JumpPlusV0GoesToTheSum := by
  unfold Obligations.JumpPlusV0GoesToTheSum
  exact fun s nnn => ⟨decode_formatNNN_B nnn, _, rfl, toNat_addr16_add_reg16 s nnn 0, s.setPc_onlyChanges_pc _⟩

end Sys2Proof.Machine
end

section
/-! The ALU (spec/42_alu.md R160, R164 to R172): the flags as numbers, what a result with a flag leaves in the registers,
and the instructions that end in one. -/

namespace Sys2Proof.Machine

open Sys2Proof.Safety

/-! Logic and the random byte: a write to `V[x]`, then the advance. -/

/-- Settles O37: the three words, then the bits of each result. -/
theorem logicOperations : Obligations.LogicOperations := by
  unfold Obligations.LogicOperations
  intro s x y
  refine ⟨decode_formatXYN_8 x y 0x1, decode_formatXYN_8 x y 0x2, decode_formatXYN_8 x y 0x3,
    ⟨_, rfl, fun b => ?_, rfl, s.setReg_advance_onlyChanges x _⟩,
    ⟨_, rfl, fun b => ?_, rfl, s.setReg_advance_onlyChanges x _⟩,
    ⟨_, rfl, fun b => ?_, rfl, s.setReg_advance_onlyChanges x _⟩⟩
  · rw [State.advance_reg, State.reg_setReg_same, BitVec.getLsbD_or]
  · rw [State.advance_reg, State.reg_setReg_same, BitVec.getLsbD_and]
  · rw [State.advance_reg, State.reg_setReg_same, BitVec.getLsbD_xor]

/-- Settles O41: the word, then the bits of the masked draw. -/
theorem randomMaskAndsTheDraw : Obligations.RandomMaskAndsTheDraw := by
  unfold Obligations.RandomMaskAndsTheDraw
  intro s rnd x kk
  refine ⟨decode_formatXKK_C x kk, _, rfl, fun b => ?_, rfl, (s.withRnd rnd).setReg_advance_onlyChanges x _⟩
  rw [State.advance_reg, State.reg_setReg_same, State.withRnd_rnd, BitVec.getLsbD_and]

/-! A result with a flag (R160). -/

@[simp] theorem State.reg_setResultFlag_flag (s : State) (x : Nibble) (r f : Byte) :
    (s.setResultFlag x r f).reg 0xF = f :=
  (s.reg_setResultFlag x 0xF r f).trans (if_pos rfl)

theorem State.reg_setResultFlag_result (s : State) {x : Nibble} (hx : x ≠ 0xF) (r f : Byte) :
    (s.setResultFlag x r f).reg x = r :=
  ((s.reg_setResultFlag x x r f).trans (if_neg hx.symm)).trans (if_pos rfl)

theorem State.setResultFlag_advance_onlyChanges (s : State) (x : Nibble) (r f : Byte) :
    OnlyChanges [x, 0xF] [.pc] s (s.setResultFlag x r f).advance :=
  (s.setResultFlag_onlyChanges_regs x r f).advance

/-! The flags and results as numbers. -/

theorem flagByte_decide (p : Prop) [Decidable p] : flagByte (decide p) = if p then 0x01 else 0x00 := by
  simp only [flagByte, decide_eq_true_eq]

theorem flagByte_toNat (b : Bool) : (flagByte b).toNat = b.toNat := by
  cases b <;> rfl

theorem byte_toNat_sub (a b : Byte) : (a - b).toNat = (a.toNat + 256 - b.toNat) % 256 := by
  have hb := b.isLt
  rw [BitVec.toNat_sub]
  omega

/-- A bit of a byte as a number. -/
theorem flagByte_getLsbD_toNat (v : Byte) (i : Nat) : (flagByte (v.getLsbD i)).toNat = v.toNat / 2 ^ i % 2 := by
  rw [flagByte_toNat, BitVec.getLsbD, Nat.toNat_testBit]

theorem shiftedOutLow_toNat (v : Byte) : (shiftedOutLow v).toNat = v.toNat % 2 := by
  rw [shiftedOutLow, flagByte_getLsbD_toNat, pow_zero, Nat.div_one]

theorem shiftedOutHigh_toNat (v : Byte) : (shiftedOutHigh v).toNat = v.toNat / 128 := by
  have hv := v.isLt
  rw [shiftedOutHigh, flagByte_getLsbD_toNat]
  omega

theorem byte_toNat_shiftRight_one (v : Byte) : (v >>> 1).toNat = v.toNat / 2 := by
  rw [BitVec.toNat_ushiftRight, Nat.shiftRight_eq_div_pow, pow_one]

theorem byte_toNat_shiftLeft_one (v : Byte) : (v <<< 1).toNat = v.toNat * 2 % 256 := by
  rw [BitVec.toNat_shiftLeft, Nat.shiftLeft_eq, pow_one]

/-! The instructions. -/

/-- Settles O38: the word, then carry and sum. -/
theorem addWithCarrySumAndCarry : Obligations.AddWithCarrySumAndCarry := by
  unfold Obligations.AddWithCarrySumAndCarry
  intro s x y
  refine ⟨decode_formatXYN_8 x y 0x4, _, rfl, ?_, fun hx => ?_, rfl, s.setResultFlag_advance_onlyChanges x _ _⟩
  · rw [State.advance_reg, State.reg_setResultFlag_flag, carryFlag, flagByte_decide]
  · rw [State.advance_reg, State.reg_setResultFlag_result _ hx, BitVec.toNat_add]

/-- A subtraction with its flag: no borrow in VF, the difference in `V[x]`. -/
theorem State.setResultFlag_sub (s : State) (x : Nibble) (a b : Byte) :
    ((s.setResultFlag x (a - b) (noBorrowFlag a b)).reg 0xF = if a.toNat ≥ b.toNat then 0x01 else 0x00) ∧
    (x ≠ 0xF → ((s.setResultFlag x (a - b) (noBorrowFlag a b)).reg x).toNat = (a.toNat + 256 - b.toNat) % 256) := by
  refine ⟨?_, fun hx => ?_⟩
  · rw [State.reg_setResultFlag_flag, noBorrowFlag, flagByte_decide]
  · rw [State.reg_setResultFlag_result _ hx, byte_toNat_sub]

/-- Settles O39: the two words, then the subtraction one way and the other. -/
theorem subtractionsAndNoBorrow : Obligations.SubtractionsAndNoBorrow := by
  unfold Obligations.SubtractionsAndNoBorrow
  intro s x y
  obtain ⟨hflag, hdiff⟩ := s.setResultFlag_sub x (s.reg x) (s.reg y)
  obtain ⟨hflag', hdiff'⟩ := s.setResultFlag_sub x (s.reg y) (s.reg x)
  exact ⟨decode_formatXYN_8 x y 0x5, decode_formatXYN_8 x y 0x7,
    ⟨_, rfl, hflag, hdiff, rfl, s.setResultFlag_advance_onlyChanges x _ _⟩,
    ⟨_, rfl, hflag', hdiff', rfl, s.setResultFlag_advance_onlyChanges x _ _⟩⟩

/-- The left shift's two destinations hold the same result, whichever is VF. -/
theorem State.reg_setReg_setResultFlag (s : State) {x : Nibble} (hx : x ≠ 0xF) (y : Nibble) (r f : Byte) :
    ((s.setReg x r).setResultFlag y r f).reg x = r := by
  rw [State.reg_setResultFlag, if_neg (show VF ≠ x from hx.symm), State.reg_setReg_same, ite_self]

/-- Settles O40: the two words, then the bit shifted out and the shifted value in each destination. -/
theorem shiftsByOneBit : Obligations.ShiftsByOneBit := by
  unfold Obligations.ShiftsByOneBit
  intro s x y
  refine ⟨decode_formatXYN_8 x y 0x6, decode_formatXYN_8 x y 0xE,
    ⟨_, rfl, ?_, fun hx => ?_, rfl, s.setResultFlag_advance_onlyChanges x _ _⟩,
    ⟨_, rfl, ?_, fun hx => ?_, fun hy => ?_, rfl,
      ((s.setReg_onlyChanges_reg x _).trans (State.setResultFlag_onlyChanges_regs _ y _ _)).advance⟩⟩
  · rw [State.advance_reg, State.reg_setResultFlag_flag, shiftedOutLow_toNat]
  · rw [State.advance_reg, State.reg_setResultFlag_result _ hx, byte_toNat_shiftRight_one]
  · rw [State.advance_reg, State.reg_setResultFlag_flag, shiftedOutHigh_toNat]
  · rw [State.advance_reg, State.reg_setReg_setResultFlag _ hx, byte_toNat_shiftLeft_one]
  · rw [State.advance_reg, State.reg_setResultFlag_result _ hy, byte_toNat_shiftLeft_one]

end Sys2Proof.Machine
end

section
/-! DrawSprite (spec/43_display.md R191 to R193): what a completed draw leaves in every cell and in VF, and drawing again. -/

namespace Sys2Proof.Machine

open Sys2Proof.Safety

/-- The sprite of a DrawSprite in this state: its bit on each cell. -/
def State.spriteAt (s : State) (x y n : Nibble) (px py : Nat) : Bool :=
  spriteBit (fun r => s.load (s.indexed r)) (s.reg x).toNat (s.reg y).toNat n.toNat px py

/-- The result of a DrawSprite that completes. -/
def State.afterDraw (s : State) (x y n : Nibble) : State :=
  ((s.setGfx (s.drawn x y n).gfx).setReg VF (flagByte (s.drawn x y n).hit)).advance

/-- The sprite has no row beyond 31 (R193). -/
def State.SpriteFits (s : State) (y n : Nibble) : Prop := ¬ (0 < n.toNat ∧ 31 < (s.reg y).toNat + n.toNat - 1)

theorem exec_drawSprite_of_fits {s : State} {y n : Nibble} (h : s.SpriteFits y n) (x : Nibble) :
    exec (.drawSprite x y n) s = .next (s.afterDraw x y n) := by
  obtain ⟨hlow, -⟩ | ⟨-, hdraw⟩ := exec_drawSprite_cases x y n s
  · exact absurd hlow h
  · exact hdraw

theorem exec_drawSprite_of_not_fits {s : State} {y n : Nibble} (h : 0 < n.toNat ∧ 31 < (s.reg y).toNat + n.toNat - 1)
    (x : Nibble) : exec (.drawSprite x y n) s = .next (s.raise .drawRowOutOfRange) := by
  obtain ⟨-, hraise⟩ | ⟨hfits, -⟩ := exec_drawSprite_cases x y n s
  · exact hraise
  · exact absurd h hfits

/-- A sprite of no rows has no bits and draws nothing, wherever its first row would be. -/
theorem spriteBit_zero (byteOf : Nat → Byte) (x0 y0 px py : Nat) : spriteBit byteOf x0 y0 0 px py = false := by
  have hrows : ¬ (y0 ≤ py ∧ py < y0 + 0 ∧ spriteColumn x0 px < 8) := by omega
  rw [spriteBit, decide_eq_false hrows, Bool.false_and]

/-- The draw over every cell, for a sprite that fits. -/
theorem State.drawn_spec {s : State} {y n : Nibble} (h : s.SpriteFits y n) (x : Nibble) :
    (∀ px py, px < 64 →
      Bitmap.cell (s.drawn x y n).gfx px py = xor (s.cell px py) (s.spriteAt x y n px py)) ∧
    ((s.drawn x y n).hit = true ↔
      ∃ px py, px < 64 ∧ py < 32 ∧ s.spriteAt x y n px py = true ∧ s.cell px py = true) := by
  unfold State.SpriteFits at h
  by_cases hn : n.toNat = 0
  · have hdrawn : s.drawn x y n = { gfx := s.gfx, hit := false } := by rw [State.drawn, hn]; rfl
    have hbit (px py : Nat) : s.spriteAt x y n px py = false := by rw [State.spriteAt, hn, spriteBit_zero]
    simp [hdrawn, hbit, State.cell]
  · obtain ⟨hcell, hhit⟩ := drawRows_spec (s.reg x).toNat (s.reg y).toNat (fun r => s.load (s.indexed r))
      (by omega : (s.reg y).toNat + n.toNat ≤ 32) { gfx := s.gfx, hit := false }
    exact ⟨hcell, hhit.trans (or_iff_right Bool.false_ne_true)⟩

theorem State.afterDraw_cell {s : State} {y n : Nibble} (h : s.SpriteFits y n) (x : Nibble) {px : Nat} (hx : px < 64)
    (py : Nat) : (s.afterDraw x y n).cell px py = xor (s.cell px py) (s.spriteAt x y n px py) :=
  (s.drawn_spec h x).1 px py hx

theorem State.afterDraw_flag (s : State) (x y n : Nibble) :
    (s.afterDraw x y n).reg 0xF = flagByte (s.drawn x y n).hit :=
  State.reg_setReg_same _ _ _

theorem flagByte_eq_zero_or_one (b : Bool) : flagByte b = 0x00 ∨ flagByte b = 0x01 := by
  cases b <;> decide

theorem flagByte_eq_one_iff (b : Bool) : flagByte b = 0x01 ↔ b = true := by
  cases b <;> decide

/-- The collision (R193): some set cell lies under a one bit of the sprite. -/
theorem State.afterDraw_flag_eq_one_iff {s : State} {y n : Nibble} (h : s.SpriteFits y n) (x : Nibble) :
    (s.afterDraw x y n).reg 0xF = 0x01 ↔
      ∃ px py, px < 64 ∧ py < 32 ∧ s.spriteAt x y n px py = true ∧ s.cell px py = true := by
  rw [State.afterDraw_flag, flagByte_eq_one_iff, (s.drawn_spec h x).2]

theorem State.afterDraw_onlyChanges (s : State) (x y n : Nibble) :
    OnlyChanges [0xF] [.pc, .framebuffer] s (s.afterDraw x y n) :=
  ((s.setGfx_onlyChanges_framebuffer _).trans (State.setReg_onlyChanges_reg _ VF _)).advance

/-- Settles O43: the word, the completed draw cell by cell, and the fault. -/
theorem drawSpriteXorsTheSprite : Obligations.DrawSpriteXorsTheSprite := by
  unfold Obligations.DrawSpriteXorsTheSprite
  intro s x y n
  refine ⟨decode_formatXYN_D x y n, fun hfits => ⟨_, exec_drawSprite_of_fits hfits x,
    fun px py hx _ => State.afterDraw_cell hfits x hx py, ?_, ?_, rfl, s.afterDraw_onlyChanges x y n⟩,
    fun hlow => ⟨_, exec_drawSprite_of_not_fits hlow x, s.raise_haltedBy _⟩⟩
  · rw [State.afterDraw_flag]
    exact flagByte_eq_zero_or_one _
  · rw [State.afterDraw_flag_eq_one_iff hfits]
    -- a set cell goes off exactly where the sprite has a one bit
    refine exists_congr fun px => exists_congr fun py => and_congr_right fun hx => and_congr_right fun _ => ?_
    rw [State.afterDraw_cell hfits x hx py]
    cases s.cell px py <;> cases s.spriteAt x y n px py <;> decide

/-- The second draw has the first one's sprite: no draw changes memory or `I`, and the coordinates are the same. -/
theorem State.spriteAt_afterDraw {s : State} {x y n : Nibble} (hx : (s.afterDraw x y n).reg x = s.reg x)
    (hy : (s.afterDraw x y n).reg y = s.reg y) : (s.afterDraw x y n).spriteAt x y n = s.spriteAt x y n := by
  unfold State.spriteAt
  rw [hx, hy]
  rfl

theorem State.spriteFits_of_executionFault {s : State} {x y n : Nibble}
    (h : executionFault s (.drawSprite x y n) = none) : s.SpriteFits y n := by
  intro hlow
  simp only [executionFault, if_pos hlow] at h
  cases h

/-- Settles O44: both draws XOR the same sprite, the second onto the cells the first left. -/
theorem drawingTwiceUndoes : Obligations.DrawingTwiceUndoes := by
  unfold Obligations.DrawingTwiceUndoes
  intro s t x y n hfault hexec hx hy
  have hfits := State.spriteFits_of_executionFault hfault
  rw [exec_drawSprite_of_fits hfits] at hexec
  cases hexec
  have hfits' : (s.afterDraw x y n).SpriteFits y n := by unfold State.SpriteFits; rwa [hy]
  refine ⟨_, exec_drawSprite_of_fits hfits' x, fun px py hpx _ => ?_, ?_⟩
  · rw [State.afterDraw_cell hfits' x hpx, State.afterDraw_cell hfits x hpx, State.spriteAt_afterDraw hx hy,
      Bool.xor_assoc, Bool.xor_self, Bool.xor_false]
  · rw [State.afterDraw_flag_eq_one_iff hfits', State.spriteAt_afterDraw hx hy]
    -- under a one bit of the sprite, a cell that is set now was clear before
    refine exists_congr fun px => exists_congr fun py => and_congr_right fun hpx => and_congr_right fun _ => ?_
    rw [State.afterDraw_cell hfits x hpx py]
    cases s.cell px py <;> cases s.spriteAt x y n px py <;> decide

end Sys2Proof.Machine
end

section
/-! Keys and timers (spec/44_keys_timers.md, spec/10_state.md R50 to R52): the key skips, the timers, the key wait, and the
commands Tick, KeyEvent and HostWrite. -/

namespace Sys2Proof.Machine

open Sys2Proof.Safety

/-! Key skips (R200, R201): the two are one operation. -/

theorem exec_skipIfKeyDown (x : Nibble) (s : State) : exec (.skipIfKeyDown x) s = .next (s.skipOnKey x true) := rfl

theorem exec_skipIfKeyUp (x : Nibble) (s : State) : exec (.skipIfKeyUp x) s = .next (s.skipOnKey x false) := rfl

theorem State.skipOnKey_of_key {s : State} {x k : Nibble} (h : (s.reg x).toNat = k.toNat) (down : Bool) :
    s.skipOnKey x down = s.skip (s.key k == down) := by
  have hkey : (s.reg x).setWidth 4 = k := BitVec.eq_of_toNat_eq (by
    rw [BitVec.toNat_setWidth, h, Nat.mod_eq_of_lt k.isLt])
  obtain ⟨hrange, -⟩ | ⟨-, hskip⟩ := s.skipOnKey_cases x down
  · have hk := k.isLt
    omega
  · rw [hskip, hkey]

theorem State.skipOnKey_of_gt {s : State} {x : Nibble} (h : 0x0F < (s.reg x).toNat) (down : Bool) :
    s.skipOnKey x down = s.raise .keyIndexOutOfRange := by
  obtain ⟨-, hraise⟩ | ⟨hrange, -⟩ := s.skipOnKey_cases x down
  · exact hraise
  · omega

theorem State.skip_beq_true_pc (s : State) (b : Bool) :
    (s.skip (b == true)).pc = if b = true then s.pc + 4 else s.pc + 2 := by
  rw [State.skip_pc_eq_ite, beq_true]

theorem State.skip_beq_false_pc (s : State) (b : Bool) :
    (s.skip (b == false)).pc = if b = true then s.pc + 2 else s.pc + 4 := by
  rw [State.skip_pc_eq_ite]
  cases b <;> rfl

/-- Settles O45: the two words, then each skip on a key in range, and the fault of both above it. -/
theorem keySkips : Obligations.KeySkips := by
  unfold Obligations.KeySkips
  refine fun s x => ⟨decode_formatXKK_E x 0x9E, decode_formatXKK_E x 0xA1, fun k hk => ⟨?_, ?_⟩, fun hrange i hi => ?_⟩
  · rw [exec_skipIfKeyDown, State.skipOnKey_of_key hk]
    exact ⟨_, rfl, s.skip_beq_true_pc _, s.skip_onlyChanges_pc _⟩
  · rw [exec_skipIfKeyUp, State.skipOnKey_of_key hk]
    exact ⟨_, rfl, s.skip_beq_false_pc _, s.skip_onlyChanges_pc _⟩
  · refine ⟨s.raise .keyIndexOutOfRange, ?_, s.raise_haltedBy _⟩
    rcases hi with rfl | rfl
    · rw [exec_skipIfKeyDown, State.skipOnKey_of_gt hrange]
    · rw [exec_skipIfKeyUp, State.skipOnKey_of_gt hrange]

/-! The timers (R202 to R205). -/

/-- Settles O46: the three words, then the read and the two writes, each with its frame and the advance. -/
theorem timerInstructions : Obligations.TimerInstructions := by
  unfold Obligations.TimerInstructions
  exact fun s x => ⟨decode_formatXKK_F x 0x07, decode_formatXKK_F x 0x15, decode_formatXKK_F x 0x18,
    ⟨_, rfl, s.reg_setReg_same x _, rfl, s.setReg_advance_onlyChanges x _⟩,
    ⟨_, rfl, s.setDT_DT _, rfl, (s.setDT_onlyChanges_delayTimer _).advance⟩,
    ⟨_, rfl, s.setST_ST _, s.setST_ST _, rfl, (s.setST_onlyChanges_soundTimer _).advance⟩⟩

/-- Settles O48: both counts and the frame of a Tick. -/
theorem tickCountsBothTimersDown : Obligations.TickCountsBothTimersDown := by
  unfold Obligations.TickCountsBothTimersDown
  exact fun s => ⟨s.tick, rfl, countDown_toNat _, countDown_toNat _, s.tick_onlyChanges_timers⟩

/-- Settles O50: a HostWrite is one store. -/
theorem hostWriteWritesOneByte : Obligations.HostWriteWritesOneByte := by
  unfold Obligations.HostWriteWritesOneByte
  exact fun s addr b => ⟨s.store addr b, rfl, s.load_store_same b rfl, fun a ha => s.load_store_of_ne b ha.symm,
    s.store_onlyChanges_memory addr b⟩

/-! KeyEvent (R208, R209): the two cases of `State.keyEvent_cases`, each under its own condition. -/

theorem State.keyEvent_of_wait {s : State} {target k : Nibble} (hrun : s.run = .awaitingKey target)
    (hup : s.key k = false) :
    s.keyEvent k true = { (s.setKey k true).setReg target (k.setWidth 8) with run := .running } := by
  simp [State.keyEvent, hrun, hup]

theorem State.keyEvent_of_no_wait {s : State} {k : Nibble} {down : Bool}
    (h : (∀ target, s.run ≠ .awaitingKey target) ∨ down = false ∨ s.key k = true) :
    s.keyEvent k down = s.setKey k down := by
  obtain ⟨target, hrun, hdown, hup, -⟩ | ⟨-, hset⟩ := s.keyEvent_cases k down
  · rcases h with hnot | hrelease | hheld
    · exact absurd hrun (hnot target)
    · rw [hdown] at hrelease; cases hrelease
    · rw [hup] at hheld; cases hheld
  · exact hset

/-- The key's bit is set whatever else the event does. -/
theorem State.key_keyEvent (s : State) (k : Nibble) (down : Bool) (j : Nibble) :
    (s.keyEvent k down).key j = if j = k then down else s.key j := by
  have hkeys : (s.keyEvent k down).key j = (s.setKey k down).key j := by
    obtain ⟨_, -, -, -, hend⟩ | ⟨-, hset⟩ := s.keyEvent_cases k down
    · rw [hend]; rfl
    · rw [hset]
  rw [hkeys, State.key_setKey]
  simp only [eq_comm]

theorem nibble_toNat_setWidth_byte (k : Nibble) : (k.setWidth 8).toNat = k.toNat :=
  BitVec.toNat_setWidth_of_le (by decide)

/-- The end of the key wait. -/
theorem State.keyEvent_ends_wait {s : State} {target k : Nibble} (hrun : s.run = .awaitingKey target)
    (hup : s.key k = false) :
    (s.keyEvent k true).run = .running ∧ ((s.keyEvent k true).reg target).toNat = k.toNat ∧
      OnlyChanges [target] [.run, .keys] s (s.keyEvent k true) := by
  rw [State.keyEvent_of_wait hrun hup]
  refine ⟨rfl, ?_, ?_⟩
  · exact (congrArg BitVec.toNat (State.reg_setReg_same _ _ _)).trans (nibble_toNat_setWidth_byte k)
  · exact (((s.setKey_onlyChanges_keys k true).trans (State.setReg_onlyChanges_reg _ target _)).trans
      (State.withRun_onlyChanges_run _ _)).mono (by simp) (by simp)

/-- Settles O49: the key's bit, the end of the wait, and every other case. -/
theorem keyEventSetsTheKey : Obligations.KeyEventSetsTheKey := by
  unfold Obligations.KeyEventSetsTheKey
  refine fun s k down => ⟨s.keyEvent k down, rfl, s.key_keyEvent k down, fun target hrun hdown hup => ?_, fun h => ?_⟩
  · rw [hdown]
    exact State.keyEvent_ends_wait hrun hup
  · rw [State.keyEvent_of_no_wait h]
    exact s.setKey_onlyChanges_keys k down

/-! The key wait (R207). -/

theorem State.command_step_of_not_running {s : State} (h : s.run ≠ .running) (rnd : Byte) :
    s.command (.step rnd) = .next s := by
  obtain ⟨hrun, -⟩ | ⟨hrun, -⟩ | ⟨-, hhold⟩ := s.stepCommand_cases rnd
  · exact absurd hrun h
  · exact absurd hrun h
  · exact hhold

/-- Settles O47: the word, the wait's begin with its frame, and what Step, Tick and a held key do in it. -/
theorem blockOnKeyPressWaits : Obligations.BlockOnKeyPressWaits := by
  unfold Obligations.BlockOnKeyPressWaits
  intro s x
  have hrun : (s.awaitKey x).advance.run ≠ .running := nofun
  refine ⟨decode_formatXKK_F x 0x0A, (s.awaitKey x).advance, rfl, rfl, rfl, rfl,
    (s.awaitKey_onlyChanges_run x).advance, State.command_step_of_not_running hrun,
    ⟨countDown_toNat _, State.tick_run _⟩, fun k hheld => ?_⟩
  have hheld' : (s.awaitKey x).advance.key k = true := hheld
  rw [State.keyEvent_of_no_wait (.inr (.inr hheld')), State.setKey_run]

end Sys2Proof.Machine
end

section
/-! Index arithmetic and register transfer (spec/45_index_memory.md R221, R222, R224 to R226). -/

namespace Sys2Proof.Machine

open Sys2Proof.Safety

/-! The index register. -/

theorem State.toNat_I_add_reg16 (s : State) (x : Nibble) :
    (s.I + s.reg16 x).toNat = (s.I.toNat + (s.reg x).toNat) % 65536 := by
  rw [BitVec.toNat_add, State.reg16_toNat]

/-- Five times a byte fits in 16 bits. -/
theorem State.toNat_five_mul_reg16 (s : State) (x : Nibble) : (5 * s.reg16 x).toNat = 5 * (s.reg x).toNat := by
  have hx := (s.reg x).isLt
  have hfive : (5 : Word).toNat = 5 := rfl
  rw [BitVec.toNat_mul, State.reg16_toNat, hfive]
  omega

/-- Settles O52: the two words, then the sum and the product, each with the frame of a write of `I` and the advance. -/
theorem indexArithmetic : Obligations.IndexArithmetic := by
  unfold Obligations.IndexArithmetic
  exact fun s x => ⟨decode_formatXKK_F x 0x1E, decode_formatXKK_F x 0x29,
    ⟨_, rfl, s.toNat_I_add_reg16 x, rfl, (s.setI_onlyChanges_index _).advance⟩,
    ⟨_, rfl, s.toNat_five_mul_reg16 x, rfl, (s.setI_onlyChanges_index _).advance⟩⟩

/-! Dump. -/

theorem exec_dumpRegisters (x : Nibble) (s : State) : exec (.dumpRegisters x) s =
    .next (s.storeRun (fun i => s.reg (BitVec.ofNat 4 i)) (x.toNat + 1)).advance := rfl

/-- A run up to any register fits in memory. -/
theorem nibble_succ_le_memSize (x : Nibble) : x.toNat + 1 ≤ memSize :=
  (Nat.succ_le_of_lt x.isLt).trans (by decide)

theorem State.load_dump (s : State) {x r : Nibble} (hr : r.toNat ≤ x.toNat) :
    (s.storeRun (fun i => s.reg (BitVec.ofNat 4 i)) (x.toNat + 1)).load (s.indexed r.toNat) = s.reg r := by
  rw [State.load_storeRun_indexed s _ (Nat.lt_succ_of_le hr) (nibble_succ_le_memSize x), BitVec.ofNat_toNat,
    BitVec.setWidth_eq]

/-- Settles O54: the word, then the run of stores: its bytes, its addresses and its frame. -/
theorem dumpStoresTheRegisters : Obligations.DumpStoresTheRegisters := by
  unfold Obligations.DumpStoresTheRegisters
  exact fun s x => ⟨decode_formatXKK_F x 0x55, _, exec_dumpRegisters x s, fun r hr => s.load_dump hr,
    fun i _ => s.reduce_indexed_eq_mod i, s.storeRun_memorySameOutside _ (nibble_succ_le_memSize x),
    s.storeRun_advance_pc _ _, (s.storeRun_onlyChanges_memory _ _).advance⟩

/-! Fill. -/

theorem exec_fillRegisters (x : Nibble) (s : State) :
    exec (.fillRegisters x) s = .next (s.loadRun (x.toNat + 1)).advance := rfl

theorem State.reg_fill_of_le (s : State) {x r : Nibble} (hr : r.toNat ≤ x.toNat) :
    (s.loadRun (x.toNat + 1)).reg r = s.load (s.indexed r.toNat) := by
  rw [State.reg_loadRun s (Nat.succ_le_of_lt x.isLt), if_pos (Nat.lt_succ_of_le hr)]

theorem State.reg_fill_of_gt (s : State) {x r : Nibble} (hr : x.toNat < r.toNat) :
    (s.loadRun (x.toNat + 1)).reg r = s.reg r := by
  rw [State.reg_loadRun s (Nat.succ_le_of_lt x.isLt), if_neg (Nat.not_lt_of_le hr)]

/-- Settles O55: the word, then the run of loads: the registers up to `x`, those above, and its frame. -/
theorem fillLoadsTheRegisters : Obligations.FillLoadsTheRegisters := by
  unfold Obligations.FillLoadsTheRegisters
  refine fun s x => ⟨decode_formatXKK_F x 0x65, _, exec_fillRegisters x s, fun r hr => s.reg_fill_of_le hr,
    fun r hr => s.reg_fill_of_gt hr, ?_, (s.loadRun_onlyChanges_regs _).advance⟩
  rw [State.advance_pc, State.loadRun_pc]

/-! The round trip. -/

theorem State.indexed_congr {s t : State} (h : t.I = s.I) (i : Nat) : t.indexed i = s.indexed i := by
  rw [State.indexed, State.indexed, h]

/-- Settles O56: a fill reads, at the addresses of the dump, the registers that the dump stored. -/
theorem dumpThenFillRoundTrips : Obligations.DumpThenFillRoundTrips := by
  unfold Obligations.DumpThenFillRoundTrips
  intro s t u x hdump hI hload
  rw [exec_dumpRegisters] at hdump
  cases hdump
  have hI' : u.I = s.I := hI.trans (s.storeRun_I _ _)
  refine ⟨_, exec_fillRegisters x u, fun r hr => ?_, fun r hr => ⟨u.reg_fill_of_gt hr, s.storeRun_reg _ _ r⟩,
    u.loadRun_load _⟩
  calc (u.loadRun (x.toNat + 1)).reg r
      = u.load (u.indexed r.toNat) := u.reg_fill_of_le hr
    _ = (s.storeRun (fun i => s.reg (BitVec.ofNat 4 i)) (x.toNat + 1)).load (s.indexed r.toNat) := by
        rw [State.indexed_congr hI', hload, State.advance_load]
    _ = s.reg r := s.load_dump hr

end Sys2Proof.Machine
end

section
/-! All instructions at once (spec/10_state.md R33, R36, R38, R44; spec/60_exceptions.md R241): what an instruction may
change, when it faults, and that none reads the sound timer. -/

namespace Sys2Proof.Machine

open Sys2Proof.Safety

/-! The frame (R33, R44). -/

theorem State.callTo_onlyChanges (s : State) (p : Word) : OnlyChanges [] [.pc, .stack, .run] s (s.callTo p) := by
  obtain ⟨-, hraise⟩ | ⟨-, hcall⟩ := s.callTo_cases p
  · rw [hraise]; exact (s.raise_onlyChanges_run _).mono (by simp) (by simp)
  · rw [hcall]; exact (s.push_setPc_onlyChanges _ _).mono (by simp) (by simp)

theorem State.returnToCaller_onlyChanges (s : State) : OnlyChanges [] [.pc, .stack, .run] s s.returnToCaller := by
  obtain ⟨-, hraise⟩ | ⟨rest, v, -, hpop⟩ := s.returnToCaller_cases
  · rw [hraise]; exact (s.raise_onlyChanges_run _).mono (by simp) (by simp)
  · rw [hpop]; exact (s.pop_onlyChanges rest v).mono (by simp) (by simp)

theorem State.skipOnKey_onlyChanges (s : State) (x : Nibble) (down : Bool) :
    OnlyChanges [] [.pc, .run] s (s.skipOnKey x down) := by
  obtain ⟨-, hraise⟩ | ⟨-, hskip⟩ := s.skipOnKey_cases x down
  · rw [hraise]; exact (s.raise_onlyChanges_run _).mono (by simp) (by simp)
  · rw [hskip]; exact (s.skip_onlyChanges_pc _).mono (by simp) (by simp)

theorem exec_drawSprite_onlyChanges {x y n : Nibble} {s t : State} (h : exec (.drawSprite x y n) s = .next t) :
    OnlyChanges [VF] [.pc, .framebuffer, .run] s t := by
  by_cases hlow : 0 < n.toNat ∧ 31 < (s.reg y).toNat + n.toNat - 1
  · rw [exec_drawSprite_of_not_fits hlow] at h; cases h
    exact (s.raise_onlyChanges_run _).mono (by simp) (by simp)
  · rw [exec_drawSprite_of_fits hlow] at h; cases h
    exact (s.afterDraw_onlyChanges x y n).mono (by simp [VF]) (by simp)

/-- Every instruction changes no register and no piece of state but those its rule lists. -/
theorem exec_onlyChanges {i : Instr} {s t : State} (h : exec i s = .next t) :
    OnlyChanges (regsWritten i) (piecesWritten i) s t := by
  cases i with
  | clearDisplay => cases h; exact s.setGfx_advance_onlyChanges _
  | drawSprite x y n => exact exec_drawSprite_onlyChanges h
  | returnFromSubroutine => cases h; exact s.returnToCaller_onlyChanges
  | call | callSubroutine => cases h; exact s.callTo_onlyChanges _
  | skipIfKeyDown x => cases h; exact s.skipOnKey_onlyChanges x true
  | skipIfKeyUp x => cases h; exact s.skipOnKey_onlyChanges x false
  | blockOnKeyPress x => cases h; exact (s.awaitKey_onlyChanges_run x).advance
  | setDelayTimer => cases h; exact (s.setDT_onlyChanges_delayTimer _).advance
  | setSoundTimer => cases h; exact (s.setST_onlyChanges_soundTimer _).advance
  | setIndex | addToIndexRegister | useSprite => cases h; exact (s.setI_onlyChanges_index _).advance
  | readRegisterAsBCD | dumpRegisters => cases h; exact (s.storeRun_onlyChanges_memory _ _).advance
  | fillRegisters => cases h; exact (s.loadRun_onlyChanges_regs _).advance
  | jump | jumpPlusV0 | skipIfEqualImmediate | skipIfNotEqualImmediate | skipIfRegistersEqual
  | skipIfRegistersNotEqual => cases h; exact s.setPc_onlyChanges_pc _
  | setImmediate | addImmediate | copy | or | and | xor | randomMask | readDelayTimer =>
    cases h; exact s.setReg_advance_onlyChanges _ _
  | addWithCarry | subtractWithBorrow | shiftRight | reverseSubtract =>
    cases h; exact s.setResultFlag_advance_onlyChanges _ _ _
  | shiftLeft =>
    cases h
    exact ((s.setReg_onlyChanges_reg _ _).trans (State.setResultFlag_onlyChanges_regs _ _ _ _)).advance

/-- A piece of state that an instruction does not write. -/
theorem exec_same {i : Instr} {s t : State} (h : exec i s = .next t) {p : Piece} (hp : p ∉ piecesWritten i) :
    p.same s t := (exec_onlyChanges h).2 p hp

/-- Settles O16, instruction by instruction. -/
theorem instructionsChangeOnlyTheirOwnState : Obligations.InstructionsChangeOnlyTheirOwnState := by
  unfold Obligations.InstructionsChangeOnlyTheirOwnState
  exact fun _ _ _ h => exec_onlyChanges h

/-! The stack (R36). -/

theorem State.callTo_stack_cases (s : State) (p : Word) :
    (s.callTo p).stack = s.stack ∨
      (s.stack.length < s.cfg.stackDepth ∧ (s.callTo p).stack = s.stack ++ [s.pc + 2]) := by
  obtain ⟨-, hraise⟩ | ⟨hroom, hcall⟩ := s.callTo_cases p
  · exact .inl (by rw [hraise, State.raise_stack])
  · exact .inr ⟨hroom, by rw [hcall, State.setPc_stack, State.push_stack]⟩

theorem State.returnToCaller_stack_cases (s : State) :
    s.returnToCaller.stack = s.stack ∨
      ∃ v, s.stack = s.returnToCaller.stack ++ [v] ∧ s.returnToCaller.pc = v := by
  obtain ⟨-, hraise⟩ | ⟨rest, v, hstack, hpop⟩ := s.returnToCaller_cases
  · exact .inl (by rw [hraise, State.raise_stack])
  · exact .inr ⟨v, by rw [hpop]; exact ⟨hstack, rfl⟩⟩

/-- Settles O17: the frame but for the calls and the return, and these by what they do to the stack. -/
theorem stackMovesByCallsAndReturnsOnly : Obligations.StackMovesByCallsAndReturnsOnly := by
  unfold Obligations.StackMovesByCallsAndReturnsOnly
  intro i s t h
  cases i with
  | call nnn =>
    cases h
    exact (s.callTo_stack_cases (addr16 nnn)).imp_right fun hpush => .inl ⟨.inl ⟨nnn, rfl⟩, hpush.2⟩
  | callSubroutine nnn =>
    cases h
    exact (s.callTo_stack_cases (addr16 nnn)).imp_right fun hpush => .inl ⟨.inr ⟨nnn, rfl⟩, hpush.2⟩
  | returnFromSubroutine =>
    cases h
    exact s.returnToCaller_stack_cases.imp_right fun hpop => .inr ⟨rfl, hpop⟩
  | _ => exact .inl (exec_same h (p := .stack) (by simp [piecesWritten]))

/-! The sound timer (R38): every shared operation commutes with another ST. -/

theorem State.storeRun_setST (s : State) (v : Byte) (f : Nat → Byte) (n : Nat) :
    (s.setST v).storeRun f n = (s.storeRun f n).setST v := by
  induction n with
  | zero => rfl
  | succ n ih => rw [State.storeRun_succ, State.storeRun_succ, ih]; rfl

theorem State.loadRun_setST (s : State) (v : Byte) (n : Nat) : (s.setST v).loadRun n = (s.loadRun n).setST v := by
  induction n with
  | zero => rfl
  | succ n ih => rw [State.loadRun_succ, State.loadRun_succ, ih]; rfl

theorem State.callTo_setST (s : State) (v : Byte) (target : Word) :
    (s.setST v).callTo target = (s.callTo target).setST v := by
  unfold State.callTo
  rw [apply_ite (State.setST · v)]; rfl

theorem State.skipOnKey_setST (s : State) (v : Byte) (x : Nibble) (down : Bool) :
    (s.setST v).skipOnKey x down = (s.skipOnKey x down).setST v := by
  unfold State.skipOnKey
  rw [apply_ite (State.setST · v)]; rfl

theorem State.returnToCaller_setST (s : State) (v : Byte) :
    (s.setST v).returnToCaller = s.returnToCaller.setST v := by
  simp only [State.returnToCaller, State.setST_stack]
  cases s.stack.getLast? <;> rfl

theorem exec_drawSprite_setST {x y n : Nibble} {s t : State} (v : Byte) (h : exec (.drawSprite x y n) s = .next t) :
    exec (.drawSprite x y n) (s.setST v) = .next (t.setST v) := by
  cases h
  show Host.Outcome.next (ite _ _ _) = .next (State.setST (ite _ _ _) v)
  rw [apply_ite (State.setST · v)]; rfl

/-- An instruction other than SetSoundTimer does the same whatever ST holds, and leaves it there. -/
theorem exec_setST {i : Instr} {s t : State} (v : Byte) (hi : ∀ x, i ≠ .setSoundTimer x) (h : exec i s = .next t) :
    exec i (s.setST v) = .next (t.setST v) := by
  cases i with
  | setSoundTimer x => exact absurd rfl (hi x)
  | drawSprite => exact exec_drawSprite_setST v h
  | returnFromSubroutine => cases h; exact congrArg _ (s.returnToCaller_setST v)
  | call | callSubroutine => cases h; exact congrArg _ (s.callTo_setST v _)
  | skipIfKeyDown | skipIfKeyUp => cases h; exact congrArg _ (s.skipOnKey_setST v _ _)
  | readRegisterAsBCD | dumpRegisters =>
    cases h; exact congrArg (Host.Outcome.next ∘ State.advance) (s.storeRun_setST v _ _)
  | fillRegisters => cases h; exact congrArg (Host.Outcome.next ∘ State.advance) (s.loadRun_setST v _)
  | _ => cases h; rfl

/-- SetSoundTimer overwrites ST without reading it. -/
theorem exec_setSoundTimer_setST (x : Nibble) (s : State) (v : Byte) :
    exec (.setSoundTimer x) (s.setST v) = exec (.setSoundTimer x) s := rfl

/-- Settles O18: SetSoundTimer forgets the old ST, every other instruction carries it along. -/
theorem soundTimerIsReadByNoInstruction : Obligations.SoundTimerIsReadByNoInstruction := by
  unfold Obligations.SoundTimerIsReadByNoInstruction
  intro i s t v h
  by_cases hi : ∃ x, i = .setSoundTimer x
  · obtain ⟨x, rfl⟩ := hi
    exact ⟨t, (exec_setSoundTimer_setST x s v).trans h, fun _ => rfl, OnlyChanges.refl _ _ t⟩
  · exact ⟨t.setST v, exec_setST v (not_exists.mp hi) h, t.setST_reg v, t.setST_onlyChanges_soundTimer v⟩

/-! Faults (R241). -/

/-- An instruction to which the table gives a fault only raises it. -/
theorem exec_of_executionFault {i : Instr} {s : State} {c : Cause} (h : executionFault s i = some c) :
    exec i s = .next (s.raise c) := by
  cases i with
  | returnFromSubroutine =>
    obtain ⟨hempty, hc⟩ := Option.ite_none_right_eq_some.mp h
    cases hc
    exact congrArg _ (State.returnToCaller_of_nil (List.length_eq_zero_iff.mp hempty))
  | call | callSubroutine =>
    obtain ⟨hfull, hc⟩ := Option.ite_none_right_eq_some.mp h
    cases hc
    exact congrArg _ (State.callTo_of_le hfull _)
  | skipIfKeyDown | skipIfKeyUp =>
    obtain ⟨hrange, hc⟩ := Option.ite_none_right_eq_some.mp h
    cases hc
    exact congrArg _ (State.skipOnKey_of_gt hrange _)
  | drawSprite =>
    obtain ⟨hlow, hc⟩ := Option.ite_none_right_eq_some.mp h
    cases hc
    exact exec_drawSprite_of_not_fits hlow _
  | _ => cases h

theorem State.returnToCaller_run_of_ne_nil {s : State} (h : s.stack ≠ []) : s.returnToCaller.run = s.run := by
  obtain ⟨hempty, -⟩ | ⟨rest, v, -, hpop⟩ := s.returnToCaller_cases
  · exact absurd hempty h
  · rw [hpop]

theorem State.callTo_run_of_lt {s : State} (h : s.stack.length < s.cfg.stackDepth) (p : Word) :
    (s.callTo p).run = s.run := by
  rw [State.callTo_of_lt h, State.setPc_run, State.push_run]

theorem State.skipOnKey_run_of_le {s : State} {x : Nibble} (h : (s.reg x).toNat ≤ 0x0F) (down : Bool) :
    (s.skipOnKey x down).run = s.run := by
  obtain ⟨hrange, -⟩ | ⟨-, hskip⟩ := s.skipOnKey_cases x down
  · omega
  · rw [hskip, State.skip_run]

/-- An instruction to which the table gives no fault leaves the run state, or begins a key wait. -/
theorem exec_run_of_no_executionFault {i : Instr} {s t : State} (hfault : executionFault s i = none)
    (h : exec i s = .next t) : t.run = s.run ∨ ∃ x, t.run = .awaitingKey x := by
  cases i with
  | blockOnKeyPress x => cases h; exact .inr ⟨x, rfl⟩
  | returnFromSubroutine =>
    cases h
    exact .inl (State.returnToCaller_run_of_ne_nil (by simpa [executionFault] using hfault))
  | call | callSubroutine =>
    cases h
    exact .inl (State.callTo_run_of_lt (by simpa [executionFault] using hfault) _)
  | skipIfKeyDown | skipIfKeyUp =>
    cases h
    exact .inl (State.skipOnKey_run_of_le (by simpa [executionFault] using hfault) _)
  | drawSprite x y n =>
    rw [exec_drawSprite_of_fits (State.spriteFits_of_executionFault hfault)] at h
    cases h
    exact .inl rfl
  | _ => exact .inl (exec_same h (p := .run) (by simp [piecesWritten]))

theorem isHalted_eq_true_iff (s : State) : isHalted s = true ↔ ∃ c w f, s.run = .halted c w f := by
  unfold isHalted
  cases s.run <;> simp

theorem isHalted_of_running {s : State} (h : s.run = .running) : isHalted s = false := by
  simp [isHalted, h]

theorem isHalted_of_awaitingKey {s : State} {x : Nibble} (h : s.run = .awaitingKey x) : isHalted s = false := by
  simp [isHalted, h]

theorem exec_not_halted {i : Instr} {s t : State} (hrun : s.run = .running) (hfault : executionFault s i = none)
    (h : exec i s = .next t) : isHalted t = false := by
  obtain hsame | ⟨x, hwait⟩ := exec_run_of_no_executionFault hfault h
  · exact isHalted_of_running (hsame.trans hrun)
  · exact isHalted_of_awaitingKey hwait

/-! Every instruction and every command answers a next state. -/

theorem exec_answers (i : Instr) (s : State) : ∃ t, exec i s = .next t := by
  cases i <;> exact ⟨_, rfl⟩

theorem State.command_answers (s : State) (c : Command) : ∃ t, s.command c = .next t := by
  cases c with
  | step rnd =>
    obtain ⟨-, i, -, hexec⟩ | ⟨-, -, hraise⟩ | ⟨-, hhold⟩ := s.stepCommand_cases rnd
    · obtain ⟨t, ht⟩ := exec_answers i (s.withRnd rnd)
      exact ⟨t, hexec.trans ht⟩
    · exact ⟨_, hraise⟩
    · exact ⟨_, hhold⟩
  | reset | tick | keyEvent | hostWrite => exact ⟨_, rfl⟩

theorem step_answers (s : State) : ∃ t, step s = .next t := by
  obtain ⟨c, rest, -, hstep⟩ | ⟨-, hstep⟩ := step_cases s
  · rw [hstep]; exact State.command_answers _ _
  · rw [hstep]; exact State.command_answers _ _

/-- Settles O15: the instructions, the commands, and the step that takes one. -/
theorem everyStepAnswersANextState : Obligations.EveryStepAnswersANextState := by
  unfold Obligations.EveryStepAnswersANextState
  exact ⟨exec_answers, State.command_answers, step_answers⟩

/-- Settles O19: the raise where the table gives a fault, and the run state where it gives none. -/
theorem faultTableIsExact : Obligations.FaultTableIsExact := by
  unfold Obligations.FaultTableIsExact
  intro i s hrun
  obtain ⟨t, ht⟩ := exec_answers i s
  refine ⟨t, ht, fun c hc => ?_, fun hnone => exec_not_halted hrun hnone ht⟩
  cases (exec_of_executionFault hc).symm.trans ht
  exact s.raise_haltedBy c

/-- Settles O20: the table of codes, and the status port read off a halted state. -/
theorem causeCodes : Obligations.CauseCodes := by
  unfold Obligations.CauseCodes
  exact ⟨rfl, rfl, rfl, rfl, rfl, rfl, fun s c w f hrun => ⟨hrun, by rw [State.statusCode, hrun]⟩⟩

end Sys2Proof.Machine
end

section
/-! Steps and commands (spec/40_execute_cycle.md R126; spec/60_exceptions.md R246, R257): the next command, the Step
of a placed instruction, and what commands can do in a key wait and in a halt. -/

namespace Sys2Proof.Machine

open Sys2Proof.Safety

/-! The next command. -/

theorem step_of_inbox_cons {s : State} {c : Command} {rest : List Command} (h : s.inbox = c :: rest) :
    step s = { s with inbox := rest }.command c := by
  simp only [step, h]

theorem step_of_inbox_nil {s : State} (h : s.inbox = []) :
    step s = { s with draws := s.draws + 1 }.command (Config.freeCommand s.draws) := by
  simp only [step, h, State.freeTurn]

/-- Settles O10: the Step at the head of the inbox, and the free command were it a Step. -/
theorem stepRunsDecodedInstruction : Obligations.StepRunsDecodedInstruction := by
  unfold Obligations.StepRunsDecodedInstruction
  refine fun s i hrun hdec => ⟨fun rnd rest hinbox => ?_, fun hinbox => ⟨step_of_inbox_nil hinbox, fun rnd => ?_⟩⟩
  · rw [step_of_inbox_cons hinbox]
    exact State.command_step_of_decode_ok (s := { s with inbox := rest }) rnd hrun hdec
  · exact State.command_step_of_decode_ok (s := { s with draws := s.draws + 1 }) rnd hrun hdec

/-- Settles O12: the command alone, and at the head of the inbox. -/
theorem stepHoldsWhenNotRunning : Obligations.StepHoldsWhenNotRunning := by
  unfold Obligations.StepHoldsWhenNotRunning
  refine fun s hrun => ⟨State.command_step_of_not_running hrun, fun rnd rest hinbox => ?_⟩
  rw [step_of_inbox_cons hinbox]
  exact State.command_step_of_not_running (s := { s with inbox := rest }) hrun rnd

/-- A placed word is the one that is fetched. -/
theorem State.fetchWord_withFetchWord (s : State) (w : Word) : (s.withFetchWord 16 w.toNat).fetchWord = w := by
  have hword : BitVec.ofNat 16 (w.toNat % 2 ^ 16) = w := by
    rw [Nat.mod_eq_of_lt w.isLt, BitVec.ofNat_toNat, BitVec.setWidth_eq]
  calc (s.withFetchWord 16 w.toNat).fetchWord
      = wordOfBytes (Word.hiByte (BitVec.ofNat 16 (w.toNat % 2 ^ 16)))
          (Word.loByte (BitVec.ofNat 16 (w.toNat % 2 ^ 16))) := s.fetchWord_store_store _ _
    _ = w := by rw [wordOfBytes_hi_lo, hword]

/-- Settles O13: the placed Step is taken, it fetches the placed word, and that decodes to the instruction. -/
theorem placedInstructionRunsNext : Obligations.PlacedInstructionRunsNext := by
  unfold Obligations.PlacedInstructionRunsNext
  intro s i hwf
  have hdec : decode (s.withFetchWord 16 (encode i).toNat).fetchWord = .ok i := by
    rw [State.fetchWord_withFetchWord, decode_encode hwf]
  rw [step_of_inbox_cons (s := s.withFetchWord 16 (encode i).toNat) rfl]
  exact State.command_step_of_decode_ok (s := { s.withFetchWord 16 (encode i).toNat with inbox := [] }) _ rfl hdec

/-! The halt (R246) and the key wait (R257). -/

theorem run_ne_of_isHalted {s : State} (h : isHalted s = true) :
    s.run ≠ .running ∧ ∀ t, s.run ≠ .awaitingKey t := by
  obtain ⟨c, w, f, hrun⟩ := (isHalted_eq_true_iff s).mp h
  rw [hrun]
  exact ⟨nofun, nofun⟩

theorem State.keyEvent_of_halted {s : State} (h : isHalted s = true) (k : Nibble) (down : Bool) :
    s.keyEvent k down = s.setKey k down :=
  State.keyEvent_of_no_wait (.inl (run_ne_of_isHalted h).2)

/-- Settles O21, command by command. -/
theorem onlyResetLeavesHalted : Obligations.OnlyResetLeavesHalted := by
  unfold Obligations.OnlyResetLeavesHalted
  intro s c hhalted hreset
  cases c with
  | reset => exact absurd rfl hreset
  | step rnd =>
    exact ⟨s, State.command_step_of_not_running (run_ne_of_isHalted hhalted).1 rnd, rfl, OnlyChanges.refl _ _ s⟩
  | tick => exact ⟨s.tick, rfl, rfl, s.tick_onlyChanges_timers.mono (by simp) (by simp)⟩
  | keyEvent k down =>
    exact ⟨s.setKey k down, congrArg _ (State.keyEvent_of_halted hhalted k down), rfl,
      (s.setKey_onlyChanges_keys k down).mono (by simp) (by simp)⟩
  | hostWrite addr b =>
    exact ⟨s.store addr b, rfl, rfl, (s.store_onlyChanges_memory addr b).mono (by simp) (by simp)⟩

/-- Settles O22: a new key-down ends the wait; every other command leaves the run state. -/
theorem onlyNewKeyDownEndsTheWait : Obligations.OnlyNewKeyDownEndsTheWait := by
  unfold Obligations.OnlyNewKeyDownEndsTheWait
  intro s target c hrun hreset
  by_cases hnew : ∃ k, c = .keyEvent k true ∧ s.key k = false
  · obtain ⟨k, rfl, hup⟩ := hnew
    obtain ⟨hrunning, htarget, hframe⟩ := State.keyEvent_ends_wait hrun hup
    refine ⟨s.keyEvent k true, rfl, ⟨fun _ => ⟨k, rfl, hup⟩, fun _ => ?_⟩, fun j hj _ => ?_⟩
    · rw [hrunning, hrun]; nofun
    · cases hj; exact ⟨hrunning, htarget, hframe⟩
  · have hstay : ∃ t, s.command c = .next t ∧ t.run = s.run := by
      cases c with
      | reset => exact absurd rfl hreset
      | step rnd => exact ⟨s, State.command_step_of_not_running (by rw [hrun]; nofun) rnd, rfl⟩
      | tick => exact ⟨s.tick, rfl, rfl⟩
      | keyEvent k down =>
        have hold : down = false ∨ s.key k = true := by
          by_contra hold
          rw [not_or, Bool.not_eq_false, Bool.not_eq_true] at hold
          obtain ⟨rfl, hup⟩ := hold
          exact hnew ⟨k, rfl, hup⟩
        exact ⟨s.setKey k down, congrArg _ (State.keyEvent_of_no_wait (.inr hold)), rfl⟩
      | hostWrite addr b => exact ⟨s.store addr b, rfl, rfl⟩
    obtain ⟨t, hcommand, hsame⟩ := hstay
    exact ⟨t, hcommand, ⟨fun hne => absurd hsame hne, fun h => absurd h hnew⟩,
      fun k hk hup => absurd ⟨k, hk, hup⟩ hnew⟩

end Sys2Proof.Machine
end

section
/-! Reset (spec/10_state.md R54; spec/70_reset_and_hazards.md R270). -/

namespace Sys2Proof.Machine

open Sys2Proof.Safety

theorem State.initial_resetValues (cfg : Config) : ResetValues (State.initial cfg) where
  memory := State.load_initial cfg
  registers := State.reg_initial cfg
  index := rfl
  pc := rfl
  stack := rfl
  delay := rfl
  sound := rfl
  display := State.cell_initial cfg
  keys := State.key_initial cfg
  run := rfl

/-- The reset values say nothing about the environment's side, in which alone Reset differs from the initial state. -/
theorem State.toReset_resetValues (s : State) : ResetValues s.toReset :=
  { State.initial_resetValues s.cfg with }

/-- Settles O26: every initial state, and the reference one among them. -/
theorem resetStateHoldsTheResetValues : Obligations.ResetStateHoldsTheResetValues := by
  unfold Obligations.ResetStateHoldsTheResetValues
  exact ⟨fun cfg => ⟨State.initial_resetValues cfg, rfl⟩, State.initial_resetValues referenceConfig, rfl⟩

/-- Settles O27: what Reset writes, and the fields it leaves. -/
theorem resetCommandFromAnyState : Obligations.ResetCommandFromAnyState := by
  unfold Obligations.ResetCommandFromAnyState
  exact fun s => ⟨s.toReset, rfl, s.toReset_resetValues, rfl, rfl, rfl, rfl⟩

end Sys2Proof.Machine
end

section
/-! The invariant (spec/10_state.md R36; spec/60_exceptions.md R241, R243, R244): it holds at reset, every instruction and
every command keeps it, so every step does, and so does every run that meets no fault. -/

namespace Sys2Proof.Machine

open Sys2Proof.Safety

/-! What the record depends on. -/

/-- A fault depends on the stack, the parameters and the registers alone. -/
theorem stepFault_congr {s t : State} (hstack : t.stack = s.stack) (hcfg : t.cfg = s.cfg)
    (hreg : ∀ r, t.reg r = s.reg r) (w : Word) : stepFault t w = stepFault s w := by
  have hexec (i : Instr) : executionFault t i = executionFault s i := by
    cases i <;> simp only [executionFault, hstack, hcfg, hreg]
  simp only [stepFault, hexec]

theorem haltRecordTrue_of_not_halted {s : State} (h : isHalted s = false) : HaltRecordTrue s := by
  unfold HaltRecordTrue
  cases hrun : s.run with
  | halted c w f => simp [isHalted, hrun] at h
  | running | awaitingKey => trivial

theorem haltRecordTrue_congr {s t : State} (hrun : t.run = s.run) (hpc : t.pc = s.pc) (hstack : t.stack = s.stack)
    (hcfg : t.cfg = s.cfg) (hreg : ∀ r, t.reg r = s.reg r) (h : HaltRecordTrue s) : HaltRecordTrue t := by
  simp only [HaltRecordTrue, hrun, hpc, stepFault_congr hstack hcfg hreg] at h ⊢
  exact h

/-! Instructions: memory and the stack. -/

theorem State.callTo_mem (s : State) (p : Word) : (s.callTo p).mem = s.mem := by
  obtain ⟨-, hraise⟩ | ⟨-, hcall⟩ := s.callTo_cases p
  · rw [hraise, State.raise_mem]
  · rw [hcall, State.setPc_mem, State.push_mem]

theorem State.returnToCaller_mem (s : State) : s.returnToCaller.mem = s.mem := by
  obtain ⟨-, hraise⟩ | ⟨rest, v, -, hpop⟩ := s.returnToCaller_cases
  · rw [hraise, State.raise_mem]
  · rw [hpop]

theorem State.skipOnKey_mem (s : State) (x : Nibble) (down : Bool) : (s.skipOnKey x down).mem = s.mem := by
  obtain ⟨-, hraise⟩ | ⟨-, hskip⟩ := s.skipOnKey_cases x down
  · rw [hraise, State.raise_mem]
  · rw [hskip, State.skip_mem]

/-- Only the two runs of stores write memory, and they keep its canonical form. -/
theorem exec_wf {i : Instr} {s t : State} (hwf : Memory.wf (resetByte s.cfg) s.mem = true) (h : exec i s = .next t) :
    Memory.wf (resetByte s.cfg) t.mem = true := by
  cases i with
  | readRegisterAsBCD | dumpRegisters => cases h; exact s.storeRun_wf _ _ hwf
  | fillRegisters => cases h; rwa [State.advance_mem, State.loadRun_mem]
  | returnFromSubroutine => cases h; rwa [State.returnToCaller_mem]
  | call | callSubroutine => cases h; rwa [State.callTo_mem]
  | skipIfKeyDown | skipIfKeyUp => cases h; rwa [State.skipOnKey_mem]
  | drawSprite x y n =>
    obtain ⟨-, hraise⟩ | ⟨-, hdraw⟩ := exec_drawSprite_cases x y n s
    · cases hraise.symm.trans h; exact hwf
    · cases hdraw.symm.trans h; exact hwf
  | _ => cases h; exact hwf

/-- A push has room, and every other move of the stack makes it no deeper (R36). -/
theorem exec_depth {i : Instr} {s t : State} (hdepth : s.stack.length ≤ s.cfg.stackDepth) (h : exec i s = .next t) :
    t.stack.length ≤ s.cfg.stackDepth := by
  cases i with
  | call nnn | callSubroutine nnn =>
    cases h
    obtain hsame | ⟨hroom, hpush⟩ := s.callTo_stack_cases (addr16 nnn)
    · rwa [hsame]
    · rw [hpush, List.length_append]; exact hroom
  | returnFromSubroutine =>
    cases h
    obtain hsame | ⟨v, hpop, -⟩ := s.returnToCaller_stack_cases
    · rwa [hsame]
    · rw [hpop, List.length_append] at hdepth; exact Nat.le_of_add_right_le hdepth
  | _ =>
    have hsame : t.stack = s.stack := exec_same h (p := .stack) (by simp [piecesWritten])
    rwa [hsame]

/-! Reset. -/

theorem State.initial_inv (cfg : Config) : Inv (State.initial cfg) :=
  ⟨State.initial_wf cfg, Nat.zero_le _, trivial⟩

theorem State.toReset_inv (s : State) : Inv s.toReset :=
  ⟨State.initial_wf s.cfg, Nat.zero_le _, trivial⟩

end Sys2Proof.Machine

namespace Sys2Proof.Safety

open Sys2Proof.Machine

/-! Changes that keep the invariant. -/

/-- The pieces no part of the invariant reads but the canonical form of memory. -/
theorem Inv.of_onlyChanges {s t : State} (hinv : Inv s)
    (h : OnlyChanges [] [.memory, .delayTimer, .soundTimer, .keys, .inputs] s t)
    (hmem : Memory.wf (resetByte t.cfg) t.mem = true) : Inv t := by
  obtain ⟨hreg, hpiece⟩ := h
  have hstack : t.stack = s.stack := hpiece .stack (by simp)
  have hcfg : t.cfg = s.cfg := hpiece .parameters (by simp)
  refine ⟨hmem, ?_, haltRecordTrue_congr (hpiece .run (by simp)) (hpiece .pc (by simp)) hstack hcfg
    (fun r => hreg r (by simp)) hinv.record⟩
  rw [hstack, hcfg]
  exact hinv.depth

theorem Inv.withRnd {s : State} (hinv : Inv s) (b : Byte) : Inv (s.withRnd b) :=
  hinv.of_onlyChanges ((s.withRnd_onlyChanges_inputs b).mono (by simp) (by simp)) hinv.memory

theorem Inv.withEnvironment {s : State} (hinv : Inv s) (d : Nat) (l : List Command) : Inv (s.withEnvironment d l) :=
  hinv.of_onlyChanges ((s.withEnvironment_onlyChanges_inputs d l).mono (by simp) (by simp)) hinv.memory

theorem Inv.setKey {s : State} (hinv : Inv s) (k : Nibble) (b : Bool) : Inv (s.setKey k b) :=
  hinv.of_onlyChanges ((s.setKey_onlyChanges_keys k b).mono (by simp) (by simp)) hinv.memory

theorem Inv.tick {s : State} (hinv : Inv s) : Inv s.tick :=
  hinv.of_onlyChanges (s.tick_onlyChanges_timers.mono (by simp) (by simp)) hinv.memory

theorem Inv.store {s : State} (hinv : Inv s) (a : Word) (v : Byte) : Inv (s.store a v) :=
  hinv.of_onlyChanges ((s.store_onlyChanges_memory a v).mono (by simp) (by simp)) (s.store_wf a v hinv.memory)

/-- The end of a key wait writes a register, which only a halt's record could read. -/
theorem Inv.keyEvent {s : State} (hinv : Inv s) (k : Nibble) (down : Bool) : Inv (s.keyEvent k down) := by
  obtain ⟨target, -, -, -, hend⟩ | ⟨-, hset⟩ := s.keyEvent_cases k down
  · rw [hend]
    exact ⟨hinv.memory, hinv.depth, trivial⟩
  · rw [hset]
    exact hinv.setKey k down

/-- A raise keeps the invariant when its cause is the one the fetched word has. -/
theorem Inv.raise {s : State} (hinv : Inv s) {c : Cause} (hcause : stepFault s s.fetchWord = some c) :
    Inv (s.raise c) := by
  have hrecord : stepFault (s.raise c) s.fetchWord = some c :=
    (stepFault_congr (s.raise_stack c) (s.raise_cfg c) (s.raise_reg c) _).trans hcause
  exact ⟨hinv.memory, hinv.depth, ⟨rfl, hrecord⟩⟩

/-! Instructions, commands, steps. -/

/-- The instruction at `pc` keeps the invariant: it raises the fault the table gives it, or does not halt. -/
theorem Inv.of_exec {i : Instr} {s t : State} (hinv : Inv s) (hrun : s.run = .running) (hdec : decode s.fetchWord = .ok i)
    (h : exec i s = .next t) : Inv t := by
  cases hfault : executionFault s i with
  | some c =>
    have hcause : stepFault s s.fetchWord = some c := by simp only [stepFault, hdec, hfault]
    cases (exec_of_executionFault hfault).symm.trans h
    exact hinv.raise hcause
  | none =>
    have hcfg : t.cfg = s.cfg := exec_same h (p := .parameters) (by cases i <;> simp [piecesWritten])
    refine ⟨?_, ?_, haltRecordTrue_of_not_halted (exec_not_halted hrun hfault h)⟩
    · rw [hcfg]; exact exec_wf hinv.memory h
    · rw [hcfg]; exact exec_depth hinv.depth h

theorem Inv.of_stepCommand {s t : State} (hinv : Inv s) {rnd : Byte} (h : s.stepCommand rnd = .next t) : Inv t := by
  have hinv' := hinv.withRnd rnd
  obtain ⟨hrun, i, hdec, hexec⟩ | ⟨-, ⟨e, hdec⟩, hraise⟩ | ⟨-, hhold⟩ := s.stepCommand_cases rnd
  · exact hinv'.of_exec hrun hdec (hexec.symm.trans h)
  · cases hraise.symm.trans h
    have hcause : stepFault (s.withRnd rnd) s.fetchWord = some .illegalInstruction := by simp only [stepFault, hdec]
    exact hinv'.raise hcause
  · cases hhold.symm.trans h
    exact hinv

theorem Inv.of_command {s t : State} (hinv : Inv s) {c : Command} (h : s.command c = .next t) : Inv t := by
  cases c with
  | reset => cases h; exact s.toReset_inv
  | step rnd => exact hinv.of_stepCommand h
  | tick => cases h; exact hinv.tick
  | keyEvent k down => cases h; exact hinv.keyEvent k down
  | hostWrite addr b => cases h; exact hinv.store addr b

theorem Inv.of_step {s t : State} (hinv : Inv s) (h : step s = .next t) : Inv t := by
  obtain ⟨c, rest, -, hstep⟩ | ⟨-, hstep⟩ := step_cases s
  · exact (hinv.withEnvironment s.draws rest).of_command (hstep.symm.trans h)
  · exact (hinv.withEnvironment (s.draws + 1) s.inbox).of_command (hstep.symm.trans h)

end Sys2Proof.Safety

namespace Sys2Proof.Machine

open Sys2Proof.Safety

/-- Settles O23: whichever command comes keeps the invariant. -/
theorem everyStepKeepsTheInvariant : Obligations.EveryStepKeepsTheInvariant := by
  unfold Obligations.EveryStepKeepsTheInvariant
  exact fun _ _ hinv h => hinv.of_step h

/-- Settles O24: every initial state, and the reference one among them. -/
theorem resetHasTheInvariant : Obligations.ResetHasTheInvariant := by
  unfold Obligations.ResetHasTheInvariant
  exact ⟨State.initial_inv, State.initial_inv referenceConfig⟩

theorem safeRun_succ_iff {n : Nat} {s t : State} (h : step s = .next t) :
    SafeRun (n + 1) s ↔ isHalted s = false ∧ SafeRun n t := by
  simp only [SafeRun, h]

/-- Settles O25, by induction on the length of the run. -/
theorem safeRunsKeepTheInvariant : Obligations.SafeRunsKeepTheInvariant := by
  unfold Obligations.SafeRunsKeepTheInvariant
  intro n
  induction n with
  | zero => exact fun s hinv hsafe => ⟨s, rfl, hinv, hsafe⟩
  | succ n ih =>
    intro s hinv hsafe
    obtain ⟨t, hstep⟩ := step_answers s
    obtain ⟨-, hrest⟩ := (safeRun_succ_iff hstep).mp hsafe
    rw [run_succ_of_step n hstep]
    exact ih t (hinv.of_step hstep) hrest

end Sys2Proof.Machine
end

section
/-! The order of commands (spec/10_state.md R47): a run takes the commands one after the other, spelled out or free. -/

namespace Sys2Proof.Machine

open Sys2Proof.Safety

theorem State.withEnvironment_self (s : State) : s.withEnvironment s.draws s.inbox = s := rfl

/-- No command writes the counter or the inbox: it answers the same in its own environment. -/
theorem State.command_environment {s t : State} {c : Command} (h : s.command c = .next t) :
    t.draws = s.draws ∧ t.inbox = s.inbox := by
  have hself := State.command_withEnvironment s t c s.draws s.inbox h
  rw [State.withEnvironment_self] at hself
  rw [Host.Outcome.next.inj (h.symm.trans hself)]
  exact ⟨rfl, rfl⟩

theorem runCommands_cons {s t : State} {c : Command} (h : s.command c = .next t) (cs : List Command) :
    runCommands (c :: cs) s = runCommands cs t := by
  simp only [runCommands, h]

/-- The step that takes the first command of the inbox. -/
theorem step_of_inbox_append {s t : State} {c : Command} (h : s.command c = .next t) (l : List Command) :
    step { s with inbox := c :: l } = .next { t with inbox := l } := by
  obtain ⟨hdraws, -⟩ := State.command_environment h
  have hcommand := State.command_withEnvironment s t c s.draws l h
  rw [← hdraws] at hcommand
  exact (step_of_inbox_cons (s := { s with inbox := c :: l }) rfl).trans (hdraws ▸ hcommand)

/-- The step that takes the `d`-th free command. -/
theorem step_of_freeCommand {s t : State} {d : Nat} (h : s.command (Config.freeCommand d) = .next t)
    (hinbox : s.inbox = []) : step { s with draws := d } = .next { t with draws := d + 1 } := by
  obtain ⟨-, hkept⟩ := State.command_environment h
  have hcommand := State.command_withEnvironment s t _ (d + 1) s.inbox h
  exact (step_of_inbox_nil (s := { s with draws := d }) hinbox).trans (hkept ▸ hcommand)

/-- A list of commands at the head of the inbox runs in its order. -/
theorem run_of_inbox (cs : List Command) (s : State) (more : List Command) :
    ∃ t, runCommands cs s = .next t ∧
      Host.Core.run Sys2Proof.core cs.length { s with inbox := cs ++ more } = .next { t with inbox := more } := by
  induction cs generalizing s with
  | nil => exact ⟨s, rfl, rfl⟩
  | cons c cs ih =>
    obtain ⟨u, hcommand⟩ := s.command_answers c
    obtain ⟨t, hruns, hrun⟩ := ih u
    refine ⟨t, (runCommands_cons hcommand cs).trans hruns, ?_⟩
    exact (run_succ_of_step cs.length (step_of_inbox_append hcommand (cs ++ more))).trans hrun

/-- With nothing spelled out, a run is that of the free commands from the counter on. -/
theorem run_of_freeCommands (n : Nat) (s : State) (d : Nat) (hinbox : s.inbox = []) :
    ∃ t, runCommands ((List.range n).map (fun i => Config.freeCommand (d + i))) s = .next t ∧
      Host.Core.run Sys2Proof.core n { s with draws := d } = .next { t with draws := d + n } := by
  induction n generalizing s d with
  | zero => exact ⟨s, rfl, rfl⟩
  | succ n ih =>
    obtain ⟨u, hcommand⟩ := s.command_answers (Config.freeCommand d)
    obtain ⟨-, hkept⟩ := State.command_environment hcommand
    obtain ⟨t, hruns, hrun⟩ := ih u (d + 1) (hkept.trans hinbox)
    have hlist : (List.range (n + 1)).map (fun i => Config.freeCommand (d + i)) =
        Config.freeCommand d :: (List.range n).map (fun i => Config.freeCommand (d + 1 + i)) := by
      rw [List.range_succ_eq_map, List.map_cons, List.map_map]
      simp only [Function.comp_def, Nat.succ_eq_add_one, Nat.add_zero, Nat.add_assoc, Nat.add_comm 1]
    refine ⟨t, ?_, ?_⟩
    · rw [hlist, runCommands_cons hcommand, hruns]
    · rw [run_succ_of_step n (step_of_freeCommand hcommand hinbox), hrun, Nat.add_right_comm, Nat.add_assoc]

/-- Settles O57: both by induction on the length of the run, the second with the counter as a number of its own. -/
theorem everyOrderOfCommandsIsARun : Obligations.EveryOrderOfCommandsIsARun := by
  unfold Obligations.EveryOrderOfCommandsIsARun
  exact ⟨fun s cs more => run_of_inbox cs s more, fun s n hinbox => run_of_freeCommands n s s.draws hinbox⟩

end Sys2Proof.Machine
end
